-- ==== Sys2Proof/Word.lean ====
section
/-! DEFINITION. The word types of the RBE: 32-bit command words (R61) and 8-bit bytes of the host window (R47). -/

namespace Sys2Proof

/-- A command word (R61). -/
abbrev Word := BitVec 32

/-- A byte of the host sample window (R47). -/
abbrev Byte := BitVec 8

end Sys2Proof
end

