-- ==== Sys2Proof/Syntax.lean ====
section
/-! DEFINITION. The command set: one constructor per row of spec/opcode_table.json (R64), its operands the immediate
fields of the row's format (R65). Signed fields are kept as their bits; the meanings read them with `toInt`. -/

namespace Sys2Proof

/-- The commands of R64. `slot` is SLOT, `c` is CIDX (R62); the other operands are named after the fields of R65. -/
inductive Instr where
  /-- 0x00 `NOP` (R214). -/
  | nop
  /-- 0x01 `REG_WRITE` (R215). -/
  | regWrite (slot : BitVec 5) (reg : BitVec 8) (value : Word)
  /-- 0x02 `PIC_INIT` (R216). -/
  | picInit (slot : BitVec 5)
  /-- 0x03 `PIC_DONE` (R217). -/
  | picDone (slot : BitVec 5)
  /-- 0x04 `PIC_FREE` (R218). -/
  | picFree (slot : BitVec 5)
  /-- 0x05 `SET_CTB` (R219). -/
  | setCtb (slot : BitVec 5) (rx ry : BitVec 16) (ctbAddrTs : BitVec 32) (sliceIdx tileId : BitVec 16)
  /-- 0x06 `SET_SLICE` (R220). -/
  | setSlice (slot : BitVec 5) (sliceIdx : BitVec 16) (dbkDis lfAcross saoL saoC : Bool) (beta tc : BitVec 4)
  /-- 0x07 `SET_CU` (R221). -/
  | setCu (slot : BitVec 5) (log2Cb : BitVec 3) (intra pcm bypass : Bool) (qpY : BitVec 7) (x y : BitVec 16)
  /-- 0x08 `MARK_TB` (R168). -/
  | markTb (slot : BitVec 5) (log2Tb : BitVec 3) (nz : Bool) (x y : BitVec 16)
  /-- 0x09 `MARK_PB` (R169). -/
  | markPb (slot : BitVec 5) (pf0 pf1 : Bool) (ref0 ref1 : BitVec 5) (x y w h mv0x mv0y mv1x mv1y : BitVec 16)
  /-- 0x0A `SET_SAO` (R193). -/
  | setSao (slot : BitVec 5) (c : BitVec 2) (saoType : BitVec 2) (pos : BitVec 5) (rx ry : BitVec 16)
      (off1 off2 off3 off4 : BitVec 8)
  /-- 0x0B `SET_SCALING` (R85). -/
  | setScaling (slot : BitVec 5) (sizeId : BitVec 2) (matrix : BitVec 3) (sx sy : BitVec 5) (value : BitVec 8)
  /-- 0x10 `COEF_WRITE` (R81). -/
  | coefWrite (cx cy : BitVec 5) (value : BitVec 16)
  /-- 0x11 `COEF_CLEAR` (R82). -/
  | coefClear
  /-- 0x12 `PUT_SAMPLE` (R223). -/
  | putSample (slot : BitVec 5) (c : BitVec 2) (x y value : BitVec 16)
  /-- 0x20 `INTRA_PRED` (R111). -/
  | intraPred (slot : BitVec 5) (c : BitVec 2) (log2N : BitVec 3) (mode : BitVec 6) (x y : BitVec 16)
  /-- 0x21 `RESIDUAL` (R94). -/
  | residual (slot : BitVec 5) (c : BitVec 2) (log2N : BitVec 3) (tskip : Bool) (qp : BitVec 7) (x y : BitVec 16)
  /-- 0x22 `INTER_PRED` (R165). -/
  | interPred (slot : BitVec 5) (c : BitVec 2) (expl : Bool) (denom : BitVec 3)
      (x y w h wt0 of0 wt1 of1 : BitVec 16)
  /-- 0x30 `DEBLOCK` (R186). -/
  | deblock (slot : BitVec 5) (dir : Bool) (rx ry : BitVec 16)
  /-- 0x31 `SAO` (R200). -/
  | sao (slot : BitVec 5) (rx ry : BitVec 16)
  /-- 0x40 `SET_PROGRESS` (R225). -/
  | setProgress (slot : BitVec 5) (value : BitVec 3) (rx ry : BitVec 16)
  /-- 0x41 `WAIT_PROGRESS` (R226). -/
  | waitProgress (slot : BitVec 5) (value : BitVec 3) (rx ry : BitVec 16)
  deriving DecidableEq, Repr

end Sys2Proof
end

