-- ==== Sys2Proof/WellFormed.lean ====
section
/-! DEFINITION. Which terms of `Instr` some command words stand for. Every operand width is in its type; what is left is
R62's "3 is illegal" for CIDX. Field ranges that only the command rule checks (R66) are no part of it. -/

namespace Sys2Proof

/-- CIDX names a component: 0 Y, 1 Cb, 2 Cr; 3 is illegal (R62, R67). -/
def componentOk (c : BitVec 2) : Bool := c != 3#2

/-- A command some legal encoding stands for (R63 check (1), R67). -/
def Instr.wellFormed : Instr → Bool
  | .nop => true
  | .regWrite _ _ _ => true
  | .picInit _ => true
  | .picDone _ => true
  | .picFree _ => true
  | .setCtb _ _ _ _ _ _ => true
  | .setSlice _ _ _ _ _ _ _ _ => true
  | .setCu _ _ _ _ _ _ _ _ => true
  | .markTb _ _ _ _ _ => true
  | .markPb _ _ _ _ _ _ _ _ _ _ _ _ _ => true
  | .setSao _ c _ _ _ _ _ _ _ _ => componentOk c
  | .setScaling _ _ _ _ _ _ => true
  | .coefWrite _ _ _ => true
  | .coefClear => true
  | .putSample _ c _ _ _ => componentOk c
  | .intraPred _ c _ _ _ _ => componentOk c
  | .residual _ c _ _ _ _ _ => componentOk c
  | .interPred _ c _ _ _ _ _ _ _ _ _ _ => componentOk c
  | .deblock _ _ _ _ => true
  | .sao _ _ _ => true
  | .setProgress _ _ _ _ => true
  | .waitProgress _ _ _ _ => true

end Sys2Proof
end

