-- ==== Sys2Proof/Decode.lean ====
section
/-! DEFINITION. Decoding the command at the head of a queue (R61 to R67), total on every list of words and rejecting by
name, and the encoder written from the same tables. -/

namespace Sys2Proof

/-- Why no command is read from a queue. `incomplete` is no fault: the engine waits for more words (R63). The others
are the causes of `ILLEGAL_COMMAND` (R67, R229). -/
inductive DecodeError where
  /-- Fewer words than the opcode's length are in the queue (R63). -/
  | incomplete
  /-- The opcode is not in R64; the length is taken as 1 (R63). -/
  | unknownOpcode
  /-- A bit that R65 does not list is 1. -/
  | reservedBitSet
  /-- SLOT is not 0 on a command that names no slot (R67). -/
  | slotNamed
  /-- CIDX is 3, or not 0 on a command without a component (R67). -/
  | badComponent
  deriving DecidableEq, Repr

/-- `v[lo + len - 1 : lo]`, the field of `len` bits from bit `lo` of a word (R13). -/
def bits (w : Word) (lo len : Nat) : BitVec len := w.extractLsb' lo len

/-- A one-bit field as a truth value. -/
def flag (w : Word) (lo : Nat) : Bool := w.getLsbD lo

/-- OP, W0[7:0] (R62). -/
def opField (w0 : Word) : BitVec 8 := bits w0 0 8

/-- SLOT, W0[12:8] (R62). -/
def slotField (w0 : Word) : BitVec 5 := bits w0 8 5

/-- CIDX, W0[14:13] (R62). -/
def cidxField (w0 : Word) : BitVec 2 := bits w0 13 2

/-- One row of R64 with the reserved bits of its format (R65), each range as (word, lowest bit, width). -/
structure OpcodeRow where
  /-- Length in words. -/
  len : Nat
  /-- The command names a slot. -/
  slotted : Bool
  /-- The command has a component. -/
  component : Bool
  /-- The bits that must be 0, beside SLOT and CIDX. -/
  reserved : List (Nat × Nat × Nat)
  deriving DecidableEq, Repr

/-- The opcode map of R64; `none` for every opcode outside it. -/
def opcodeRow (op : BitVec 8) : Option OpcodeRow :=
  match op.toNat with
  | 0x00 => some ⟨1, false, false, [(0, 15, 17)]⟩
  | 0x01 => some ⟨2, true, false, [(0, 15, 1), (0, 24, 8)]⟩
  | 0x02 => some ⟨1, true, false, [(0, 15, 17)]⟩
  | 0x03 => some ⟨1, true, false, [(0, 15, 17)]⟩
  | 0x04 => some ⟨1, true, false, [(0, 15, 17)]⟩
  | 0x05 => some ⟨4, true, false, [(0, 15, 17)]⟩
  | 0x06 => some ⟨2, true, false, [(0, 15, 1), (1, 12, 20)]⟩
  | 0x07 => some ⟨2, true, false, [(0, 15, 1), (0, 29, 3)]⟩
  | 0x08 => some ⟨2, true, false, [(0, 15, 1), (0, 20, 12)]⟩
  | 0x09 => some ⟨5, true, false, [(0, 15, 1), (0, 28, 4)]⟩
  | 0x0A => some ⟨3, true, true, [(0, 15, 1), (0, 23, 9)]⟩
  | 0x0B => some ⟨2, true, false, [(0, 15, 1), (0, 31, 1), (1, 8, 24)]⟩
  | 0x10 => some ⟨2, false, false, [(0, 15, 1), (0, 26, 6), (1, 16, 16)]⟩
  | 0x11 => some ⟨1, false, false, [(0, 15, 17)]⟩
  | 0x12 => some ⟨3, true, true, [(0, 15, 17), (2, 16, 16)]⟩
  | 0x20 => some ⟨2, true, true, [(0, 15, 1), (0, 25, 7)]⟩
  | 0x21 => some ⟨2, true, true, [(0, 15, 1), (0, 27, 5)]⟩
  | 0x22 => some ⟨5, true, true, [(0, 15, 1), (0, 20, 12)]⟩
  | 0x30 => some ⟨2, true, false, [(0, 15, 1), (0, 17, 15)]⟩
  | 0x31 => some ⟨2, true, false, [(0, 15, 17)]⟩
  | 0x40 => some ⟨2, true, false, [(0, 15, 1), (0, 19, 13)]⟩
  | 0x41 => some ⟨2, true, false, [(0, 15, 1), (0, 19, 13)]⟩
  | _ => none

/-- Operand assembly (R65): the command of opcode `op` with the fields of its words. -/
def assembleFields (op : BitVec 8) (w0 w1 w2 w3 w4 : Word) : Option Instr :=
  let s := slotField w0
  let c := cidxField w0
  match op.toNat with
  | 0x00 => some .nop
  | 0x01 => some (.regWrite s (bits w0 16 8) w1)
  | 0x02 => some (.picInit s)
  | 0x03 => some (.picDone s)
  | 0x04 => some (.picFree s)
  | 0x05 => some (.setCtb s (bits w1 0 16) (bits w1 16 16) w2 (bits w3 0 16) (bits w3 16 16))
  | 0x06 => some (.setSlice s (bits w0 16 16) (flag w1 0) (flag w1 1) (flag w1 2) (flag w1 3) (bits w1 4 4)
      (bits w1 8 4))
  | 0x07 => some (.setCu s (bits w0 16 3) (flag w0 19) (flag w0 20) (flag w0 21) (bits w0 22 7) (bits w1 0 16)
      (bits w1 16 16))
  | 0x08 => some (.markTb s (bits w0 16 3) (flag w0 19) (bits w1 0 16) (bits w1 16 16))
  | 0x09 => some (.markPb s (flag w0 16) (flag w0 17) (bits w0 18 5) (bits w0 23 5) (bits w1 0 16) (bits w1 16 16)
      (bits w2 0 16) (bits w2 16 16) (bits w3 0 16) (bits w3 16 16) (bits w4 0 16) (bits w4 16 16))
  | 0x0A => some (.setSao s c (bits w0 16 2) (bits w0 18 5) (bits w1 0 16) (bits w1 16 16) (bits w2 0 8)
      (bits w2 8 8) (bits w2 16 8) (bits w2 24 8))
  | 0x0B => some (.setScaling s (bits w0 16 2) (bits w0 18 3) (bits w0 21 5) (bits w0 26 5) (bits w1 0 8))
  | 0x10 => some (.coefWrite (bits w0 16 5) (bits w0 21 5) (bits w1 0 16))
  | 0x11 => some .coefClear
  | 0x12 => some (.putSample s c (bits w1 0 16) (bits w1 16 16) (bits w2 0 16))
  | 0x20 => some (.intraPred s c (bits w0 16 3) (bits w0 19 6) (bits w1 0 16) (bits w1 16 16))
  | 0x21 => some (.residual s c (bits w0 16 3) (flag w0 19) (bits w0 20 7) (bits w1 0 16) (bits w1 16 16))
  | 0x22 => some (.interPred s c (flag w0 16) (bits w0 17 3) (bits w1 0 16) (bits w1 16 16) (bits w2 0 16)
      (bits w2 16 16) (bits w3 0 16) (bits w3 16 16) (bits w4 0 16) (bits w4 16 16))
  | 0x30 => some (.deblock s (flag w0 16) (bits w1 0 16) (bits w1 16 16))
  | 0x31 => some (.sao s (bits w1 0 16) (bits w1 16 16))
  | 0x40 => some (.setProgress s (bits w0 16 3) (bits w1 0 16) (bits w1 16 16))
  | 0x41 => some (.waitProgress s (bits w0 16 3) (bits w1 0 16) (bits w1 16 16))
  | _ => none

/-- Some reserved bit of the row is 1 in the queue's words (R63 check (1)). -/
def reservedBitsClear (r : OpcodeRow) (q : List Word) : Bool :=
  r.reserved.all fun f => bits (q.getD f.1 0#32) f.2.1 f.2.2 == 0#f.2.2

/-- The command at the head of a queue (R63). The words after it stay in the queue: the command's words are the first
`Instr.length` of them. -/
def decode (q : List Word) : Except DecodeError Instr :=
  match q with
  | [] => .error .incomplete
  | w0 :: _ =>
    match opcodeRow (opField w0) with
    | none => .error .unknownOpcode
    | some r =>
      if q.length < r.len then .error .incomplete
      else if reservedBitsClear r q = false then .error .reservedBitSet
      else if r.slotted = false ∧ slotField w0 ≠ 0#5 then .error .slotNamed
      else if cidxField w0 = 3#2 ∨ (r.component = false ∧ cidxField w0 ≠ 0#2) then .error .badComponent
      else
        match assembleFields (opField w0) w0 (q.getD 1 0#32) (q.getD 2 0#32) (q.getD 3 0#32) (q.getD 4 0#32) with
        | none => .error .unknownOpcode
        | some i => .ok i

/-- The queue holds a complete command at its head; an unknown opcode counts as one word (R63). -/
def holdsCommand (q : List Word) : Bool :=
  match q with
  | [] => false
  | w0 :: _ =>
    match opcodeRow (opField w0) with
    | none => true
    | some r => decide (r.len ≤ q.length)

/-- The number of words of a command (R64). -/
def Instr.length : Instr → Nat
  | .nop => 1
  | .regWrite _ _ _ => 2
  | .picInit _ => 1
  | .picDone _ => 1
  | .picFree _ => 1
  | .setCtb _ _ _ _ _ _ => 4
  | .setSlice _ _ _ _ _ _ _ _ => 2
  | .setCu _ _ _ _ _ _ _ _ => 2
  | .markTb _ _ _ _ _ => 2
  | .markPb _ _ _ _ _ _ _ _ _ _ _ _ _ => 5
  | .setSao _ _ _ _ _ _ _ _ _ _ => 3
  | .setScaling _ _ _ _ _ _ => 2
  | .coefWrite _ _ _ => 2
  | .coefClear => 1
  | .putSample _ _ _ _ _ => 3
  | .intraPred _ _ _ _ _ _ => 2
  | .residual _ _ _ _ _ _ _ => 2
  | .interPred _ _ _ _ _ _ _ _ _ _ _ _ => 5
  | .deblock _ _ _ _ => 2
  | .sao _ _ _ => 2
  | .setProgress _ _ _ _ => 2
  | .waitProgress _ _ _ _ => 2

/-- The header word of R62: OP, SLOT, CIDX and the command-specific bits `a` (W0[31:16]). -/
def header (op : Nat) (slot : BitVec 5) (c : BitVec 2) (a : Nat) : Word :=
  BitVec.ofNat 32 (op + slot.toNat * 2 ^ 8 + c.toNat * 2 ^ 13 + a * 2 ^ 16)

/-- A word of two 16-bit fields, the first in bits [15:0]. -/
def pairWord (lo hi : BitVec 16) : Word := BitVec.ofNat 32 (lo.toNat + hi.toNat * 2 ^ 16)

/-- The words of a command, from the formats of R65. -/
def encode : Instr → List Word
  | .nop => [header 0x00 0 0 0]
  | .regWrite s reg value => [header 0x01 s 0 reg.toNat, value]
  | .picInit s => [header 0x02 s 0 0]
  | .picDone s => [header 0x03 s 0 0]
  | .picFree s => [header 0x04 s 0 0]
  | .setCtb s rx ry ctbAddrTs sliceIdx tileId =>
      [header 0x05 s 0 0, pairWord rx ry, ctbAddrTs, pairWord sliceIdx tileId]
  | .setSlice s sliceIdx dbkDis lfAcross saoL saoC beta tc =>
      [header 0x06 s 0 sliceIdx.toNat,
       BitVec.ofNat 32 (dbkDis.toNat + lfAcross.toNat * 2 + saoL.toNat * 2 ^ 2 + saoC.toNat * 2 ^ 3 +
         beta.toNat * 2 ^ 4 + tc.toNat * 2 ^ 8)]
  | .setCu s log2Cb intra pcm bypass qpY x y =>
      [header 0x07 s 0 (log2Cb.toNat + intra.toNat * 2 ^ 3 + pcm.toNat * 2 ^ 4 + bypass.toNat * 2 ^ 5 +
         qpY.toNat * 2 ^ 6), pairWord x y]
  | .markTb s log2Tb nz x y => [header 0x08 s 0 (log2Tb.toNat + nz.toNat * 2 ^ 3), pairWord x y]
  | .markPb s pf0 pf1 ref0 ref1 x y w h mv0x mv0y mv1x mv1y =>
      [header 0x09 s 0 (pf0.toNat + pf1.toNat * 2 + ref0.toNat * 2 ^ 2 + ref1.toNat * 2 ^ 7),
       pairWord x y, pairWord w h, pairWord mv0x mv0y, pairWord mv1x mv1y]
  | .setSao s c saoType pos rx ry off1 off2 off3 off4 =>
      [header 0x0A s c (saoType.toNat + pos.toNat * 2 ^ 2), pairWord rx ry,
       BitVec.ofNat 32 (off1.toNat + off2.toNat * 2 ^ 8 + off3.toNat * 2 ^ 16 + off4.toNat * 2 ^ 24)]
  | .setScaling s sizeId matrix sx sy value =>
      [header 0x0B s 0 (sizeId.toNat + matrix.toNat * 2 ^ 2 + sx.toNat * 2 ^ 5 + sy.toNat * 2 ^ 10),
       BitVec.ofNat 32 value.toNat]
  | .coefWrite cx cy value =>
      [header 0x10 0 0 (cx.toNat + cy.toNat * 2 ^ 5), BitVec.ofNat 32 value.toNat]
  | .coefClear => [header 0x11 0 0 0]
  | .putSample s c x y value => [header 0x12 s c 0, pairWord x y, BitVec.ofNat 32 value.toNat]
  | .intraPred s c log2N mode x y =>
      [header 0x20 s c (log2N.toNat + mode.toNat * 2 ^ 3), pairWord x y]
  | .residual s c log2N tskip qp x y =>
      [header 0x21 s c (log2N.toNat + tskip.toNat * 2 ^ 3 + qp.toNat * 2 ^ 4), pairWord x y]
  | .interPred s c expl denom x y w h wt0 of0 wt1 of1 =>
      [header 0x22 s c (expl.toNat + denom.toNat * 2), pairWord x y, pairWord w h, pairWord wt0 of0,
       pairWord wt1 of1]
  | .deblock s dir rx ry => [header 0x30 s 0 dir.toNat, pairWord rx ry]
  | .sao s rx ry => [header 0x31 s 0 0, pairWord rx ry]
  | .setProgress s value rx ry => [header 0x40 s 0 value.toNat, pairWord rx ry]
  | .waitProgress s value rx ry => [header 0x41 s 0 value.toNat, pairWord rx ry]

/-- The five words that hold the low `nbits` bits of `w`, the first word in bits 31..0; the bits above are 0. -/
def tableWords (nbits w : Nat) : List Word :=
  let v := w % 2 ^ nbits
  [BitVec.ofNat 32 v, BitVec.ofNat 32 (v >>> 32), BitVec.ofNat 32 (v >>> 64), BitVec.ofNat 32 (v >>> 96),
   BitVec.ofNat 32 (v >>> 128)]

/-- What the decoder reads from an instruction whose bits are `w` (bit 0 the least significant bit of W0). -/
def decodeTableWord (nbits w : Nat) : Option Instr :=
  match decode (tableWords nbits w) with
  | .ok i => some i
  | .error _ => none

end Sys2Proof
end

