-- ==== Sys2Proof/Machine/Arith.lean ====
section
/-! DEFINITION. The exact integer arithmetic of R14 (H.265 clause 5): no intermediate wraps. -/

namespace Sys2Proof.Machine

/-- `x >> y`, the arithmetic right shift of R14: it rounds toward minus infinity. -/
def shr (x : Int) (y : Nat) : Int := x >>> y

/-- `x << y`, multiplication by 2^y (R14). -/
def shl (x : Int) (y : Nat) : Int := x * 2 ^ y

/-- `x & (2^k - 1)` for any integer x: x modulo 2^k, not negative (R14). -/
def lowBits (x : Int) (k : Nat) : Nat := (x % 2 ^ k).toNat

/-- `Clip3(lo, hi, x)` (R14). -/
def clip3 (lo hi x : Int) : Int := if x < lo then lo else if x > hi then hi else x

/-- `Clip1` for a plane of bit depth `bd` (R14). -/
def clip1 (bd : Nat) (x : Int) : Int := clip3 0 (2 ^ bd - 1) x

/-- `Abs(x)` (R14). -/
def absI (x : Int) : Int := x.natAbs

/-- `Sign(x)` (R14). -/
def signI (x : Int) : Int := if x > 0 then 1 else if x = 0 then 0 else -1

/-- `f 0 + f 1 + ... + f (n - 1)`, exact. -/
def sumTo : Nat → (Nat → Int) → Int
  | 0, _ => 0
  | n + 1, f => sumTo n f + f n

/-- Entry `i` of a table of integers; the callers stay inside the table. -/
def entry (t : List Int) (i : Nat) : Int := t.getD i 0

/-- `n` rounded up to a multiple of 16 (the default stride of R26). -/
def roundUp16 (n : Nat) : Nat := (n + 15) / 16 * 16

/-- `ceil(a / b)` (R17). -/
def ceilDiv (a b : Nat) : Nat := (a + b - 1) / b

/-- The bits of `a` at even positions and of `b` at odd positions, `n` bits of each (`Morton` of R34). -/
def morton : Nat → Nat → Nat → Nat
  | 0, _, _ => 0
  | n + 1, a, b => (a % 2) + 2 * (b % 2) + 4 * morton n (a / 2) (b / 2)

end Sys2Proof.Machine
end

