-- ==== Sys2Proof/Config.lean ====
section
/-! DEFINITION. The design's OPEN parameters (R11), its identity (R4), and the free values: uninterpreted constants
for what the spec leaves unspecified (R32, R53, R55). -/

namespace Sys2Proof

/-- The OPEN parameters of R11, taken by the model as an argument: `State.params` holds them and no step changes
them (log 1). -/
structure Params where
  /-- `NUM_ENGINES`, 1..32 (D4). -/
  numEngines : Nat
  /-- `NUM_SLOTS`, 1..32 (D5). -/
  numSlots : Nat
  /-- `MAX_SLICES`, 1..65536 (D6). -/
  maxSlices : Nat
  /-- `MAX_TILES`, 1..65536 (D6). -/
  maxTiles : Nat
  /-- `WARN_DEPTH`, at least 2 (D7). -/
  warnDepth : Nat
  /-- `QUEUE_DEPTH`, at least 8 words (D3). -/
  queueDepth : Nat
  /-- `MAX_PIC_WIDTH`, a multiple of 8 up to 65528 (D8). -/
  maxPicWidth : Nat
  /-- `MAX_PIC_HEIGHT`, a multiple of 8 up to 65528 (D8). -/
  maxPicHeight : Nat
  /-- `PAD`, bytes of padding after each plane (I1). -/
  pad : Nat
  /-- `WINDOW_BASE`, where the sample window sits in the host's address space (D17, log 21). -/
  windowBase : Nat
  /-- `IRQ_ROUTING`, the host interrupt input the line drives (D31, log 21). -/
  irqRouting : Nat
  deriving DecidableEq, Repr

/-- The ranges R11 gives the OPEN parameters. -/
def Params.legal (p : Params) : Bool :=
  decide (1 ≤ p.numEngines ∧ p.numEngines ≤ 32 ∧ 1 ≤ p.numSlots ∧ p.numSlots ≤ 32 ∧
    1 ≤ p.maxSlices ∧ p.maxSlices ≤ 65536 ∧ 1 ≤ p.maxTiles ∧ p.maxTiles ≤ 65536 ∧
    2 ≤ p.warnDepth ∧ 8 ≤ p.queueDepth ∧
    p.maxPicWidth ≤ 65528 ∧ p.maxPicWidth % 8 = 0 ∧ p.maxPicHeight ≤ 65528 ∧ p.maxPicHeight % 8 = 0)

/-- The parameters `State.reset` uses (DESIGN CHOICE, log 1): R11 leaves them OPEN, and statements hold for all. -/
def Params.default : Params where
  numEngines := 32
  numSlots := 16
  maxSlices := 65536
  maxTiles := 65536
  warnDepth := 20
  queueDepth := 64
  maxPicWidth := 65528
  maxPicHeight := 65528
  pad := 0
  windowBase := 0
  irqRouting := 0

/-- The identity string of R4 (D40). -/
def Config.identity : String := "RBE-v1-H265-8.4.4.2-8.7.3"

/-- FREE VALUE (log 3). What a command reads from an unwritten sample (R32, I2), before it is reduced to the sample
range: one draw per command (`draws`), per use of the sample within the command, per sample address. -/
opaque Config.freeSample : Nat → Nat → Nat → BitVec 16

/-- FREE VALUE (log 4, log 6). The unspecified byte the host reads from padding (R53, I1) or, reduced to the sample
range, from an unwritten sample (R60, I2): one draw per host access (`draws`) and window address. -/
opaque Config.freeByte : Nat → Nat → BitVec 8

/-- FREE VALUE (log 2). Which engine moves when the agenda is empty: R55 fixes no interleaving. -/
opaque Config.freeEngine : Nat → Nat

end Sys2Proof
end

