-- ==== Sys2Proof/Machine/Sparse.lean ====
section
/-! DEFINITION. Sparse data by key: a list of (key, value) pairs in one canonical form, keys strictly rising. A memory
lists the bytes written; a table lists the entries that differ from its reset value. -/

namespace Sys2Proof.Machine

/-- Sparse data: (key, value) pairs. -/
abbrev Sparse (α : Type) := List (Nat × α)

/-- The keys rise strictly. -/
def keysRising {α : Type} : Sparse α → Bool
  | [] => true
  | [_] => true
  | a :: b :: t => decide (a.1 < b.1) && keysRising (b :: t)

/-- The value listed under a key. -/
def sparseFind? {α : Type} : Sparse α → Nat → Option α
  | [], _ => none
  | (k', v) :: t, k => if k = k' then some v else sparseFind? t k

/-- List a value under a key, replacing the one there. -/
def sparseInsert {α : Type} : Sparse α → Nat → α → Sparse α
  | [], k, v => [(k, v)]
  | (k', v') :: t, k, v =>
    if k < k' then (k, v) :: (k', v') :: t
    else if k = k' then (k, v) :: t
    else (k', v') :: sparseInsert t k v

/-- List nothing under a key. -/
def sparseErase {α : Type} (l : Sparse α) (k : Nat) : Sparse α := l.filter fun e => e.1 != k

/-- Entry `k` of a table whose reset value is `d`. -/
def tableGet {α : Type} (d : α) (t : Sparse α) (k : Nat) : α := (sparseFind? t k).getD d

/-- Write entry `k` of a table whose reset value is `d`; writing the reset value lists nothing. -/
def tableSet {α : Type} [DecidableEq α] (d : α) (t : Sparse α) (k : Nat) (v : α) : Sparse α :=
  if v = d then sparseErase t k else sparseInsert t k v

/-- Change the entries at `keys`, one after the other. -/
def tableModify {α : Type} [DecidableEq α] (d : α) (t : Sparse α) (keys : List Nat) (f : α → α) : Sparse α :=
  keys.foldl (fun t k => tableSet d t k (f (tableGet d t k))) t

/-- The canonical form of a table: keys rising, no entry equal to the reset value. -/
def tableWf {α : Type} [DecidableEq α] (d : α) (t : Sparse α) : Bool :=
  keysRising t && t.all fun e => decide (e.2 ≠ d)

end Sys2Proof.Machine
end

