-- ==== Sys2Proof/Machine/State.lean ====
section
/-! DEFINITION. The state of the RBE as plain data (R20 to R43), its reset (R247), the events that drive it (R55, R240),
and the reasons a step of the model stops. -/

namespace Sys2Proof.Machine

/-- Why the model stops. No command of the RBE ends in one of these: a command's fault (R230) is a next state. -/
inductive Fault where
  /-- Raised when the agenda names an engine at or above `NUM_ENGINES`: no such agent exists (R236). Safe: the model
  stops where the spec describes nothing (log 10). -/
  | noSuchEngine (e : BitVec 5)
  /-- Raised when a host register read names a slot at or above `NUM_SLOTS`: no such slot exists (R24). Safe (log 10). -/
  | noSuchSlot (s : BitVec 5)
  deriving DecidableEq, Repr

/-- Why an instruction has no meaning. No arm of `exec` answers with it. -/
inductive Refusal where
  /-- An instruction without a meaning, by its mnemonic. Safe: nothing is claimed of it. -/
  | notModelled (mnemonic : String)
  deriving DecidableEq, Repr

/-- The faults a command raises (R232). -/
inductive FaultCode where
  /-- 4: a non-zero coefficient outside the transform block. -/
  | coefficientOutOfImageBounds
  /-- 6: a block, sample or CTB coordinate outside the picture. -/
  | ctbOutsideImageArea
  /-- 7: a picture or plane that is too large. -/
  | outOfMemory
  /-- 8: a field value outside its legal range. -/
  | codedParameterOutOfRange
  /-- 9: the slot already holds a picture. -/
  | imageBufferFull
  /-- 501: `SLICEIDX ≥ MAX_SLICES`. -/
  | maxSlicesExceeded
  /-- 900: an illegal encoding. -/
  | illegalCommand
  /-- 901: the slot is not in flight, or not allocated. -/
  | slotNotAllocated
  /-- 902: a configuration write to an allocated slot. -/
  | configLocked
  /-- 903: a progress value below the cell's. -/
  | progressDecrease
  deriving DecidableEq, Repr

/-- The warnings of R234. -/
inductive WarningCode where
  /-- 1001: returned by `get_warning` after an overflow, never queued. -/
  | warningBufferFull
  /-- 1011: a prediction block without a reference list. -/
  | bothPredflagsZero
  /-- 1012: a reference slot that holds no picture. -/
  | nonexistingReferencePictureAccessed
  /-- 1013: never raised (R187). -/
  | numMvpNotEqualToNumMvq
  deriving DecidableEq, Repr

/-- The quality tag of a picture (R25). -/
inductive Integrity where
  | notDecoded
  | decoded
  | decodingErrors
  | derivedFromErrors
  deriving DecidableEq, Repr

/-- The stage of a CTB (R38, R224). -/
inductive Progress where
  | none
  | predictionDone
  | deblockingVPass
  | deblockingHPass
  | saoComplete
  deriving DecidableEq, Repr

/-- `SaoTypeIdx` of a record (R37). -/
inductive SaoType where
  | notApplied
  | band
  | edge
  deriving DecidableEq, Repr

/-- The seven configuration registers of a slot, whole words with their reserved bits (R26, R215). -/
structure CfgRegs where
  picWidthReg : Word
  picHeightReg : Word
  formatReg : Word
  flagsReg : Word
  qpOffsetsReg : Word
  strideYReg : Word
  strideCReg : Word
  deriving DecidableEq, Repr

/-- A motion vector in quarter luma samples, 16 bits signed each (R33). -/
structure Mv where
  x : BitVec 16
  y : BitVec 16
  deriving DecidableEq, Repr

/-- The metadata record of a 4 × 4 luma block (R33). -/
structure MetaRec where
  isIntra : Bool
  pcm : Bool
  bypass : Bool
  /-- QpY, 7 bits signed. -/
  qpY : BitVec 7
  cuSet : Bool
  tbEdgeV : Bool
  tbEdgeH : Bool
  pbEdgeV : Bool
  pbEdgeH : Bool
  nz : Bool
  predFlagL0 : Bool
  predFlagL1 : Bool
  refSlotL0 : BitVec 5
  refSlotL1 : BitVec 5
  mvL0 : Mv
  mvL1 : Mv
  deriving DecidableEq, Repr

/-- The record of a CTB (R35). -/
structure CtbRec where
  ctbAddrTs : BitVec 32
  sliceIdx : BitVec 16
  tileId : BitVec 16
  ctbSet : Bool
  deriving DecidableEq, Repr

/-- The record of a slice (R36); the offsets are 4 bits signed. -/
structure SliceRec where
  deblockDisabled : Bool
  lfAcrossSlices : Bool
  saoLuma : Bool
  saoChroma : Bool
  betaOffsetDiv2 : BitVec 4
  tcOffsetDiv2 : BitVec 4
  deriving DecidableEq, Repr

/-- The SAO record of a CTB and plane (R37); the offsets are 8 bits signed. -/
structure SaoRec where
  saoType : SaoType
  bandPos : BitVec 5
  eoClass : BitVec 2
  offset1 : BitVec 8
  offset2 : BitVec 8
  offset3 : BitVec 8
  offset4 : BitVec 8
  deriving DecidableEq, Repr

/-- A picture slot (R20, R24): life cycle, configuration and tables. Its planes are in `State.mem`. -/
structure Slot where
  /-- `Alloc(s)` (R24). -/
  alloc : Bool
  /-- `Done(s)` (R24). -/
  done : Bool
  /-- `Integrity(s)` (R25). -/
  integrity : Integrity
  /-- The configuration registers (R26). -/
  cfg : CfgRegs
  /-- `Meta(s, ·)`, by block (R33). -/
  blocks : Sparse MetaRec
  /-- `Ctb(s, ·)`, by CTB (R35). -/
  ctbs : Sparse CtbRec
  /-- `Slice(s, ·)`, by index (R36). -/
  slices : Sparse SliceRec
  /-- `Sao(s, ·)`, by plane and CTB (R37). -/
  saos : Sparse SaoRec
  /-- `Progress(s, ·)`, by CTB (R38). -/
  progress : Sparse Progress
  /-- `ScalingFactor(s, ·)`, by size, matrix and position (R39). -/
  scaling : Sparse (BitVec 8)
  deriving DecidableEq, Repr

/-- An engine (R22, R28, R40). `STATUS.STATE` follows from `faulted`, the queue and the slots (log 11). -/
structure Engine where
  /-- `Queue(e)`, the head first (R22). -/
  queue : List Word
  /-- `CmdCount(e)` (R22). -/
  cmdCount : BitVec 32
  /-- STATE is FAULTED (R28, R230). -/
  faulted : Bool
  /-- `ERRCODE(e)` (R28). -/
  errCode : BitVec 16
  /-- `ERRCMD(e)` (R28). -/
  errCmd : BitVec 32
  /-- `CTRL(e).IRQ_EN` (R28). -/
  irqEn : Bool
  /-- `Coef(e, ·)`, by position (R40). -/
  coef : Sparse (BitVec 16)
  deriving DecidableEq, Repr

/-- The host's operations (R240). -/
inductive HostOp where
  | push (e : BitVec 5) (w : Word)
  | readStatus (e : BitVec 5)
  | writeCtrl (e : BitVec 5) (v : Word)
  | readCfg (s : BitVec 5) (r : BitVec 8)
  | readSlot (s : BitVec 5)
  | readProgress (s : BitVec 5) (rx ry : BitVec 16)
  /-- `MemRead(a, n)` at a 40-bit window address (R47, R60). -/
  | memRead (a : BitVec 40) (n : Nat)
  /-- `MemWrite(a, n, v)` (R60). -/
  | memWrite (a : BitVec 40) (n : Nat) (v : Word)
  | getWarning
  | reset
  deriving DecidableEq, Repr

/-- What a host operation returns (R240, R241, R52). -/
inductive HostReply where
  /-- No host operation has run yet (log 17). -/
  | none
  /-- The operation is done and returns nothing. -/
  | done
  /-- `push` refused: the queue is full. -/
  | full
  /-- A refused window access, with its error code (R52). -/
  | error (code : BitVec 16)
  /-- A value. -/
  | value (v : Word)
  /-- STATUS, ERRCODE, ERRCMD, CTRL, CmdCount and the number of queued words. -/
  | status (status : Word) (errCode : BitVec 16) (errCmd : BitVec 32) (ctrl : Word) (cmdCount : BitVec 32)
      (words : Nat)
  deriving DecidableEq, Repr

/-- One move of the interleaving of R55: a turn of an engine, or a host operation. -/
inductive Event where
  | engine (e : BitVec 5)
  | host (op : HostOp)
  deriving DecidableEq, Repr

/-- The whole state (R20). `cur`, `agenda`, `ticks`, `draws` and `reply` are the model's own fields (log 2, 3, 17). -/
structure State where
  /-- The OPEN parameters of R11; no step changes them (log 1). -/
  params : Params
  /-- The engines, by number (R236). -/
  engines : Vector Engine 32
  /-- The picture slots, by number (R24). -/
  slots : Vector Slot 32
  /-- The bytes of every sample of `Rec` and `Out` that is written (R30, R32; log 5). -/
  mem : List Host.Cell
  /-- `Warn`, the oldest first (R29). -/
  warn : List (BitVec 16)
  /-- `WarnOverflow` (R29). -/
  warnOverflow : Bool
  /-- The engine whose command runs (log 2). -/
  cur : BitVec 5
  /-- The moves still to come, the next first (log 2). -/
  agenda : List Event
  /-- How many moves were chosen freely (log 2). -/
  ticks : Nat
  /-- How many steps may have read an unspecified value (log 3). -/
  draws : Nat
  /-- What the last host operation returned (log 17). -/
  reply : HostReply
  deriving DecidableEq, Repr

/-- The all-zero configuration (R26). -/
def CfgRegs.reset : CfgRegs := ⟨0, 0, 0, 0, 0, 0, 0⟩

/-- The zero vector. -/
def Mv.zero : Mv := ⟨0, 0⟩

/-- Every field 0 (R33). -/
def MetaRec.reset : MetaRec where
  isIntra := false
  pcm := false
  bypass := false
  qpY := 0
  cuSet := false
  tbEdgeV := false
  tbEdgeH := false
  pbEdgeV := false
  pbEdgeH := false
  nz := false
  predFlagL0 := false
  predFlagL1 := false
  refSlotL0 := 0
  refSlotL1 := 0
  mvL0 := Mv.zero
  mvL1 := Mv.zero

/-- All 0 (R35). -/
def CtbRec.reset : CtbRec := ⟨0, 0, 0, false⟩

/-- All 0 (R36). -/
def SliceRec.reset : SliceRec := ⟨false, false, false, false, 0, 0⟩

/-- Type 0, all fields 0 (R37). -/
def SaoRec.reset : SaoRec := ⟨.notApplied, 0, 0, 0, 0, 0, 0⟩

/-- The reset value of a scaling factor (R39). -/
def scalingReset : BitVec 8 := 16

/-- A slot after reset (R247). -/
def Slot.reset : Slot where
  alloc := false
  done := false
  integrity := .notDecoded
  cfg := CfgRegs.reset
  blocks := []
  ctbs := []
  slices := []
  saos := []
  progress := []
  scaling := []

/-- An engine after reset (R247). -/
def Engine.reset : Engine where
  queue := []
  cmdCount := 0
  faulted := false
  errCode := 0
  errCmd := 0
  irqEn := false
  coef := []

/-- The RBE with parameters `p` right after reset, which is also its power-on state (R246, R247). -/
def State.resetWith (p : Params) : State where
  params := p
  engines := Vector.replicate 32 Engine.reset
  slots := Vector.replicate 32 Slot.reset
  mem := []
  warn := []
  warnOverflow := false
  cur := 0
  agenda := []
  ticks := 0
  draws := 0
  reply := .none

/-- The machine right after reset, with the parameters of log 1. -/
def State.reset : State := State.resetWith Params.default

end Sys2Proof.Machine
end

