-- ==== Sys2Proof/Machine/Ops.lean ====
section
/-! DEFINITION. The named operations over the state: engines and slots, the memory of samples, the numeric codes, how a
command completes, how it faults (the RBE's exception entry, R230) and the only way out of a fault, `reset` (R239,
R250), warnings (R233), and the checks every command rule shares (R63, R231). -/

namespace Sys2Proof.Machine

/-! ## Codes -/

/-- The number of a fault (R232). -/
def FaultCode.code : FaultCode → BitVec 16
  | .coefficientOutOfImageBounds => 4
  | .ctbOutsideImageArea => 6
  | .outOfMemory => 7
  | .codedParameterOutOfRange => 8
  | .imageBufferFull => 9
  | .maxSlicesExceeded => 501
  | .illegalCommand => 900
  | .slotNotAllocated => 901
  | .configLocked => 902
  | .progressDecrease => 903

/-- The number of a warning (R234). -/
def WarningCode.code : WarningCode → BitVec 16
  | .warningBufferFull => 1001
  | .bothPredflagsZero => 1011
  | .nonexistingReferencePictureAccessed => 1012
  | .numMvpNotEqualToNumMvq => 1013

/-- The 2-bit code of R25. -/
def Integrity.code : Integrity → Nat
  | .notDecoded => 0
  | .decoded => 1
  | .decodingErrors => 2
  | .derivedFromErrors => 3

/-- The value of a progress cell (R38). -/
def Progress.toNat : Progress → Nat
  | .none => 0
  | .predictionDone => 1
  | .deblockingVPass => 2
  | .deblockingHPass => 3
  | .saoComplete => 4

/-- The progress value a command field names; `none` above 4 (R66). -/
def progressOf (v : BitVec 3) : Option Progress :=
  match v.toNat with
  | 0 => some .none
  | 1 => some .predictionDone
  | 2 => some .deblockingVPass
  | 3 => some .deblockingHPass
  | 4 => some .saoComplete
  | _ => none

/-! ## Engines and slots -/

/-- Engine `e`. -/
def State.engine (s : State) (e : BitVec 5) : Engine := s.engines[e.toNat]'e.isLt

/-- Replace engine `e`. -/
def State.setEngine (s : State) (e : BitVec 5) (v : Engine) : State :=
  { s with engines := s.engines.set e.toNat v e.isLt }

/-- The engine whose command runs. -/
def State.me (s : State) : Engine := s.engine s.cur

/-- Slot `n`. -/
def State.slot (s : State) (n : BitVec 5) : Slot := s.slots[n.toNat]'n.isLt

/-- Replace slot `n`. -/
def State.setSlot (s : State) (n : BitVec 5) (v : Slot) : State :=
  { s with slots := s.slots.set n.toNat v n.isLt }

/-- `Alloc(s) = 1` and `Done(s) = 0` (R24). -/
def Slot.inFlight (sl : Slot) : Bool := sl.alloc && !sl.done

/-! ## The coefficient buffer (R40) -/

/-- The key of `Coef(e, x, y)`. -/
def coefKey (x y : Nat) : Nat := y * 32 + x

/-- `Coef(e, x, y)` as a signed level. -/
def Engine.coefAt (g : Engine) (x y : Nat) : Int := (tableGet 0#16 g.coef (coefKey x y)).toInt

/-- Clear the coefficient buffer of the executing engine. -/
def State.clearCoef (s : State) : State := s.setEngine s.cur { s.me with coef := [] }

/-! ## Memory

A sample of a plane occupies two consecutive addresses, its low byte first. The address is that of its coordinates and
not of its window offset, since a configuration write to a freed slot does not move samples (R215; log 5). An address
that is not listed holds no value: the sample is unwritten (R32; log 8). -/

/-- Which of a slot's two sample arrays (R30). -/
inductive PlaneSet where
  /-- `Rec`, before SAO. -/
  | recon
  /-- `Out`, after SAO. -/
  | out
  deriving DecidableEq, Repr

/-- The set bit of a window address: 0 Rec, 1 Out (R47). -/
def PlaneSet.bit : PlaneSet → Nat
  | .recon => 0
  | .out => 1

/-- The number of addresses of one slot: four planes, two sets, 65536 rows of 65536 samples of two bytes. -/
def slotSpan : Nat := 2 ^ 36

/-- The address of the low byte of sample (x, y) of plane `c` of slot `n`, for coordinates below 65536. -/
def sampleAddr (n : BitVec 5) (set : PlaneSet) (c x y : Nat) : Nat :=
  n.toNat * slotSpan + c * 2 ^ 34 + set.bit * 2 ^ 33 + y * 2 ^ 17 + x * 2

/-- The canonical form of the memory: addresses strictly rising. No value is what an unlisted address reads as, so no
entry can equal it (log 8). -/
def memWf (m : List Host.Cell) : Bool := keysRising m

/-- The byte at an address; `none` where nothing is written. -/
def memByte? (m : List Host.Cell) (a : Nat) : Option Byte := sparseFind? m a

/-- Write one byte. -/
def memSetByte (m : List Host.Cell) (a : Nat) (b : Byte) : List Host.Cell := sparseInsert m a b

/-- The stored 16 bits of the sample at address `a`; `none` where it is unwritten (R32, R50). -/
def memSample? (m : List Host.Cell) (a : Nat) : Option (BitVec 16) :=
  match memByte? m a, memByte? m (a + 1) with
  | some lo, some hi => some (hi ++ lo)
  | _, _ => none

/-- Store a sample, its low byte first (R50). -/
def memSetSample (m : List Host.Cell) (a : Nat) (v : BitVec 16) : List Host.Cell :=
  memSetByte (memSetByte m a (v.extractLsb' 0 8)) (a + 1) (v.extractLsb' 8 8)

/-- Store the samples a command writes, in order. -/
def memSetSamples (m : List Host.Cell) (ws : List (Nat × Int)) : List Host.Cell :=
  ws.foldl (fun m w => memSetSample m w.1 (BitVec.ofInt 16 w.2)) m

/-- Make every sample of slot `n` unwritten (R216). -/
def memForget (m : List Host.Cell) (n : BitVec 5) : List Host.Cell :=
  m.filter fun c => c.1 / slotSpan != n.toNat

/-- The value a command reads from a sample of bit depth `bd` (R53): the stored bits masked to the depth; for an
unwritten sample a free value of the sample range (R32). `use` tells the reads of one command apart (log 3). -/
def State.readSample (s : State) (use bd : Nat) (a : Nat) : Int :=
  match memSample? s.mem a with
  | some v => Int.ofNat (v.toNat % 2 ^ bd)
  | none => Int.ofNat ((Config.freeSample s.draws use a).toNat % 2 ^ bd)

/-- The state after a step that may have read unspecified values: the next step draws anew (log 3). -/
def State.drawn (s : State) : State := { s with draws := s.draws + 1 }

/-! ## Completing, faulting, reset -/

/-- A command of `len` words completes: its words leave the queue and `CmdCount` advances (R22). -/
def complete (len : Nat) (s : State) : State :=
  s.setEngine s.cur { s.me with queue := s.me.queue.drop len, cmdCount := s.me.cmdCount + 1 }

/-- `raise Fault(code)` (R230), the RBE's exception entry: the code and the command's index are recorded and the engine
is FAULTED. The command stays at the head and `CmdCount` is kept; there is no handler (R239). -/
def raise (code : FaultCode) (s : State) : State :=
  s.setEngine s.cur { s.me with errCode := code.code, errCmd := s.me.cmdCount, faulted := true }

/-- `reset()` (R250), the only way out of a fault (R239). The parameters and the model's own fields stay (log 2). -/
def resetAll (s : State) : State :=
  { s with
    engines := Vector.replicate 32 Engine.reset
    slots := Vector.replicate 32 Slot.reset
    mem := []
    warn := []
    warnOverflow := false }

/-- How a command of `len` words ends (R228): with its effects, or with a fault that discards them all. -/
def finish (len : Nat) (s : State) (r : Except FaultCode State) : Host.Outcome State Fault Refusal :=
  match r with
  | .ok t => .next (complete len t)
  | .error code => .next (raise code s)

/-- `warn(code, s)` (R233): a full queue drops its oldest entry and records the overflow (C6). -/
def warning (w : WarningCode) (n : BitVec 5) (s : State) : State :=
  let full := s.params.warnDepth ≤ s.warn.length
  let kept := if full then s.warn.drop 1 else s.warn
  { s.setSlot n { s.slot n with integrity := .decodingErrors } with
    warn := kept ++ [w.code]
    warnOverflow := s.warnOverflow || full }

/-! ## Shared checks -/

/-- Decode check (2) of R63: the slot exists. -/
def withSlot (s : State) (n : BitVec 5) (k : Slot → Except FaultCode State) : Except FaultCode State :=
  if n.toNat < s.params.numSlots then k (s.slot n) else .error .codedParameterOutOfRange

/-- `check InFlight(s)` (R231). -/
def withInFlight (s : State) (n : BitVec 5) (k : Slot → Except FaultCode State) : Except FaultCode State :=
  withSlot s n fun sl => if sl.inFlight then k sl else .error .slotNotAllocated

end Sys2Proof.Machine
end

