-- ==== Sys2Proof/Machine/Operands.lean ====
section
/-! DEFINITION. What the operands of a command name: the configuration fields (R26), the derived picture quantities
(R17), the records at a coordinate (R16, R33 to R39), z-scan addresses (R34), samples (R30), and the host window
(R47). -/

namespace Sys2Proof.Machine

/-! ## Configuration fields (R26) -/

/-- `PicWidth`. -/
def CfgRegs.picWidth (g : CfgRegs) : Nat := (bits g.picWidthReg 0 16).toNat

/-- `PicHeight`. -/
def CfgRegs.picHeight (g : CfgRegs) : Nat := (bits g.picHeightReg 0 16).toNat

/-- `chroma_format_idc`, which is `ChromaArrayType` (R17). -/
def CfgRegs.chromaFormat (g : CfgRegs) : Nat := (bits g.formatReg 0 2).toNat

/-- `BitDepthY`. -/
def CfgRegs.bitDepthY (g : CfgRegs) : Nat := (bits g.formatReg 2 4).toNat

/-- `BitDepthC`. -/
def CfgRegs.bitDepthC (g : CfgRegs) : Nat := (bits g.formatReg 6 4).toNat

/-- `Log2CtbSizeY`. -/
def CfgRegs.log2Ctb (g : CfgRegs) : Nat := (bits g.formatReg 10 3).toNat

/-- `strong_intra_smoothing_enabled_flag`. -/
def CfgRegs.strongIntraSmoothing (g : CfgRegs) : Bool := flag g.flagsReg 0

/-- `constrained_intra_pred_flag`. -/
def CfgRegs.constrainedIntraPred (g : CfgRegs) : Bool := flag g.flagsReg 1

/-- `scaling_list_enabled_flag`. -/
def CfgRegs.scalingListEnabled (g : CfgRegs) : Bool := flag g.flagsReg 2

/-- `sample_adaptive_offset_enabled_flag`. -/
def CfgRegs.saoEnabled (g : CfgRegs) : Bool := flag g.flagsReg 3

/-- `pcm_loop_filter_disabled_flag`. -/
def CfgRegs.pcmLoopFilterDisabled (g : CfgRegs) : Bool := flag g.flagsReg 4

/-- `loop_filter_across_tiles_enabled_flag`. -/
def CfgRegs.lfAcrossTiles (g : CfgRegs) : Bool := flag g.flagsReg 5

/-- `pps_cb_qp_offset`, 5 bits signed. -/
def CfgRegs.cbQpOffset (g : CfgRegs) : Int := (bits g.qpOffsetsReg 0 5).toInt

/-- `pps_cr_qp_offset`, 5 bits signed. -/
def CfgRegs.crQpOffset (g : CfgRegs) : Int := (bits g.qpOffsetsReg 5 5).toInt

/-- Configuration register `r`; 0 for a reserved number (R240, I10). -/
def CfgRegs.read (g : CfgRegs) (r : BitVec 8) : Word :=
  match r.toNat with
  | 0 => g.picWidthReg
  | 1 => g.picHeightReg
  | 2 => g.formatReg
  | 3 => g.flagsReg
  | 4 => g.qpOffsetsReg
  | 5 => g.strideYReg
  | 6 => g.strideCReg
  | _ => 0

/-- Write configuration register `r`, all 32 bits (R215). The caller refuses a reserved number. -/
def CfgRegs.write (g : CfgRegs) (r : BitVec 8) (v : Word) : CfgRegs :=
  match r.toNat with
  | 0 => { g with picWidthReg := v }
  | 1 => { g with picHeightReg := v }
  | 2 => { g with formatReg := v }
  | 3 => { g with flagsReg := v }
  | 4 => { g with qpOffsetsReg := v }
  | 5 => { g with strideYReg := v }
  | 6 => { g with strideCReg := v }
  | _ => g

/-! ## Derived picture quantities (R17, R51) -/

/-- `SubWidthC`. -/
def CfgRegs.subWidthC (g : CfgRegs) : Nat := if g.chromaFormat = 1 ∨ g.chromaFormat = 2 then 2 else 1

/-- `SubHeightC`. -/
def CfgRegs.subHeightC (g : CfgRegs) : Nat := if g.chromaFormat = 1 then 2 else 1

/-- `SubW(c)` of R194: 1 for luma, `SubWidthC` for chroma. -/
def CfgRegs.subW (g : CfgRegs) (c : Nat) : Nat := if c = 0 then 1 else g.subWidthC

/-- `SubH(c)` of R194. -/
def CfgRegs.subH (g : CfgRegs) (c : Nat) : Nat := if c = 0 then 1 else g.subHeightC

/-- `CtbSizeY`. -/
def CfgRegs.ctbSize (g : CfgRegs) : Nat := 2 ^ g.log2Ctb

/-- `PicWidthInCtbsY`. -/
def CfgRegs.widthInCtbs (g : CfgRegs) : Nat := ceilDiv g.picWidth g.ctbSize

/-- `PicHeightInCtbsY`. -/
def CfgRegs.heightInCtbs (g : CfgRegs) : Nat := ceilDiv g.picHeight g.ctbSize

/-- `W(c)`. -/
def CfgRegs.planeW (g : CfgRegs) (c : Nat) : Nat := g.picWidth / g.subW c

/-- `H(c)`. -/
def CfgRegs.planeH (g : CfgRegs) (c : Nat) : Nat := g.picHeight / g.subH c

/-- `BitDepth(c)`. -/
def CfgRegs.bitDepth (g : CfgRegs) (c : Nat) : Nat := if c = 0 then g.bitDepthY else g.bitDepthC

/-- `QpBdOffset` of component `c`: QpBdOffsetY for luma, QpBdOffsetC for chroma. -/
def CfgRegs.qpBdOffset (g : CfgRegs) (c : Nat) : Int := 6 * ((g.bitDepth c : Int) - 8)

/-- `BPS(c)` (R51). -/
def CfgRegs.bps (g : CfgRegs) (c : Nat) : Nat := if g.bitDepth c ≤ 8 then 1 else 2

/-- Plane `c` exists: luma always, chroma unless the format is monochrome (R17, R30). -/
def CfgRegs.planeExists (g : CfgRegs) (c : Nat) : Bool := decide (c = 0 ∨ (c ≤ 2 ∧ g.chromaFormat ≠ 0))

/-- The planes that exist, in order. -/
def CfgRegs.planes (g : CfgRegs) : List Nat := if g.chromaFormat = 0 then [0] else [0, 1, 2]

/-- `Stride(s, c)`: the register, or the default where it is 0 (R26, R47). -/
def CfgRegs.stride (g : CfgRegs) (c : Nat) : Nat :=
  let r := if c = 0 then g.strideYReg.toNat else g.strideCReg.toNat
  if r = 0 then roundUp16 (g.planeW c * g.bps c) else r

/-- The bytes of a plane's window: `Stride(s, c) * H(c) + PAD` (R47). -/
def CfgRegs.planeBytes (g : CfgRegs) (pad c : Nat) : Nat := g.stride c * g.planeH c + pad

/-- A prediction block width or height: 4, 8, .., 64 (D10). -/
def pbSizeOk (n : Nat) : Bool := decide (n % 4 = 0 ∧ 4 ≤ n ∧ n ≤ 64)

/-- (rx, ry) is a CTB of the picture. -/
def CfgRegs.ctbInside (g : CfgRegs) (rx ry : Nat) : Bool := decide (rx < g.widthInCtbs ∧ ry < g.heightInCtbs)

/-! ## Records at a coordinate (R16) -/

/-- The key of a pair of 16-bit coordinates. -/
def cellKey (x y : Nat) : Nat := y * 65536 + x

/-- The key of the 4 × 4 block that holds luma sample (x, y) (R33). -/
def blockKey (x y : Nat) : Nat := cellKey (x / 4) (y / 4)

/-- `Meta(s, x, y)` (R33). -/
def Slot.metaAt (sl : Slot) (x y : Nat) : MetaRec := tableGet MetaRec.reset sl.blocks (blockKey x y)

/-- The metadata at component position (x, y) of plane `c` (R77, R194). -/
def Slot.blockMeta (sl : Slot) (c x y : Nat) : MetaRec := sl.metaAt (x * sl.cfg.subW c) (y * sl.cfg.subH c)

/-- The keys of the `w / 4` by `h / 4` blocks of a luma rectangle at (x, y). -/
def blockKeys (x y w h : Nat) : List Nat :=
  (List.range (h / 4)).flatMap fun j => (List.range (w / 4)).map fun i => blockKey (x + 4 * i) (y + 4 * j)

/-- Change the metadata of every block of a luma rectangle. -/
def Slot.modifyBlocks (sl : Slot) (x y w h : Nat) (f : MetaRec → MetaRec) : Slot :=
  { sl with blocks := tableModify MetaRec.reset sl.blocks (blockKeys x y w h) f }

/-- `Ctb(s, rx, ry)` (R35). -/
def Slot.ctbAt (sl : Slot) (rx ry : Nat) : CtbRec := tableGet CtbRec.reset sl.ctbs (cellKey rx ry)

/-- `CtbOf(x, y)`: the CTB record of a luma location (R99). -/
def Slot.ctbOf (sl : Slot) (x y : Nat) : CtbRec := sl.ctbAt (x / sl.cfg.ctbSize) (y / sl.cfg.ctbSize)

/-- `Slice(s, i)` (R36). -/
def Slot.sliceAt (sl : Slot) (i : BitVec 16) : SliceRec := tableGet SliceRec.reset sl.slices i.toNat

/-- The key of an SAO record. -/
def saoKey (c rx ry : Nat) : Nat := c * 2 ^ 32 + cellKey rx ry

/-- `Sao(s, c, rx, ry)` (R37). -/
def Slot.saoAt (sl : Slot) (c rx ry : Nat) : SaoRec := tableGet SaoRec.reset sl.saos (saoKey c rx ry)

/-- `Progress(s, rx, ry)` (R38). -/
def Slot.progressAt (sl : Slot) (rx ry : Nat) : Progress := tableGet Progress.none sl.progress (cellKey rx ry)

/-- The key of a scaling factor. -/
def scalingKey (sizeId matrixId x y : Nat) : Nat := ((sizeId * 8 + matrixId) * 32 + y) * 32 + x

/-- `ScalingFactor(s, sizeId, matrixId, x, y)` (R39). -/
def Slot.scalingAt (sl : Slot) (sizeId matrixId x y : Nat) : BitVec 8 :=
  tableGet scalingReset sl.scaling (scalingKey sizeId matrixId x y)

/-- `ZAddr(s, x, y)`: the z-scan address of the block that holds luma sample (x, y) (R34). -/
def Slot.zAddr (sl : Slot) (x y : Nat) : Nat :=
  (sl.ctbOf x y).ctbAddrTs.toNat * 2 ^ (2 * (sl.cfg.log2Ctb - 2)) +
    morton (sl.cfg.log2Ctb - 2) ((x % sl.cfg.ctbSize) / 4) ((y % sl.cfg.ctbSize) / 4)

/-! ## Samples (R30, R53) -/

/-- `Rec(s, c, x, y)` or `Out(s, c, x, y)` as a command reads it. -/
def State.sample (s : State) (n : BitVec 5) (set : PlaneSet) (c x y use : Nat) : Int :=
  s.readSample use ((s.slot n).cfg.bitDepth c) (sampleAddr n set c x y)

/-- The sample has been written (R32). -/
def State.sampleWritten (s : State) (n : BitVec 5) (set : PlaneSet) (c x y : Nat) : Bool :=
  (memSample? s.mem (sampleAddr n set c x y)).isSome

/-- The samples of a `w` by `h` block at (x0, y0) with their new values, row by row. -/
def blockWrites (n : BitVec 5) (set : PlaneSet) (c x0 y0 w h : Nat) (f : Nat → Nat → Int) : List (Nat × Int) :=
  (List.range h).flatMap fun y => (List.range w).map fun x => (sampleAddr n set c (x0 + x) (y0 + y), f x y)

/-- Write samples. -/
def State.setSamples (s : State) (ws : List (Nat × Int)) : State := { s with mem := memSetSamples s.mem ws }

/-- The checks on a command's component: decode check (1) of R63 refuses CIDX 3, then the slot is in flight, then
`check PlaneExists(s, c)` (R231). -/
def withPlane (s : State) (n : BitVec 5) (c : BitVec 2) (k : Slot → Except FaultCode State) :
    Except FaultCode State :=
  if componentOk c = false then .error .illegalCommand
  else withInFlight s n fun sl =>
    if sl.cfg.planeExists c.toNat then k sl else .error .codedParameterOutOfRange

/-! ## The host sample window (R47) -/

/-- What a byte of the window is. -/
inductive WindowByte where
  /-- Byte `b` of the sample (x, y) of plane `c`. -/
  | sample (n : BitVec 5) (set : PlaneSet) (c x y b : Nat)
  /-- A padding byte (R47). -/
  | padding
  /-- Outside the window (R47). -/
  | outside
  deriving DecidableEq, Repr

/-- SLOT of a window address, bits 39:35. -/
def windowSlot (a : BitVec 40) : BitVec 5 := a.extractLsb' 35 5

/-- The plane of a window address, bits 34:33. -/
def windowPlane (a : BitVec 40) : Nat := (a.extractLsb' 33 2 : BitVec 2).toNat

/-- The set of a window address, bit 32. -/
def windowSet (a : BitVec 40) : PlaneSet := if a.getLsbD 32 then .out else .recon

/-- The byte offset of a window address, bits 31:0. -/
def windowOffset (a : BitVec 40) : Nat := (a.extractLsb' 0 32 : BitVec 32).toNat

/-- The byte at offset `off` of plane `c` (R47). A slot at or above NUM_SLOTS is outside the window (log 9). Where the
stride of a free slot is below the bytes of a row, R47's formula puts several samples on one offset: DESIGN CHOICE
(log 26), the offset stands for the sample of row `off / stride`. -/
def State.windowByte (s : State) (n : BitVec 5) (set : PlaneSet) (c off : Nat) : WindowByte :=
  let g := (s.slot n).cfg
  if s.params.numSlots ≤ n.toNat ∨ g.planeExists c = false ∨ g.planeBytes s.params.pad c ≤ off then .outside
  else
    let y := off / g.stride c
    let x := off % g.stride c / g.bps c
    if y < g.planeH c ∧ x < g.planeW c then .sample n set c x y (off % g.stride c % g.bps c) else .padding

/-- The window address an address of the host's address space stands for: the window sits at `WINDOW_BASE` (R48). -/
def State.windowAddress (s : State) (phys : Nat) : Option (BitVec 40) :=
  if s.params.windowBase ≤ phys ∧ phys - s.params.windowBase < 2 ^ 40 then
    some (BitVec.ofNat 40 (phys - s.params.windowBase))
  else none

end Sys2Proof.Machine
end

