-- ==== Sys2Proof/Machine/Control.lean ====
section
/-! DEFINITION. The control, metadata, sample and progress commands (R211 to R226). -/

namespace Sys2Proof.Machine

/-! ## NOP, REG_WRITE -/

/-- `NOP` (R214): nothing but `CmdCount` changes. -/
def execNop (s : State) : Host.Outcome State Fault Refusal := finish 1 s (.ok s)

/-- The effect of `REG_WRITE` (R215). -/
def regWriteEffect (slot : BitVec 5) (reg : BitVec 8) (value : Word) (s : State) : Except FaultCode State :=
  withSlot s slot fun sl =>
    if 6 < reg.toNat then .error .codedParameterOutOfRange
    else if sl.alloc then .error .configLocked
    else .ok (s.setSlot slot { sl with cfg := sl.cfg.write reg value })

/-- `REG_WRITE` (R215). -/
def execRegWrite (slot : BitVec 5) (reg : BitVec 8) (value : Word) (s : State) : Host.Outcome State Fault Refusal :=
  finish 2 s (regWriteEffect slot reg value s)

/-! ## The life cycle of a slot (R212) -/

/-- R213 item 1: the reserved bits of registers 0x00 to 0x04 are 0. -/
def CfgRegs.reservedClear (g : CfgRegs) : Bool :=
  bits g.picWidthReg 16 16 == 0#16 && bits g.picHeightReg 16 16 == 0#16 && bits g.formatReg 13 19 == 0#19 &&
    bits g.flagsReg 6 26 == 0#26 && bits g.qpOffsetsReg 10 22 == 0#22

/-- R213 item 2: a picture dimension is a multiple of 8 and at least 8. -/
def dimensionOk (n : Nat) : Bool := decide (n % 8 = 0 ∧ 8 ≤ n)

/-- R213 item 3: a bit depth in 8..12. -/
def bitDepthOk (n : Nat) : Bool := decide (8 ≤ n ∧ n ≤ 12)

/-- R213 item 5: a QP offset in -12..12. -/
def qpOffsetOk (q : Int) : Bool := decide (-12 ≤ q ∧ q ≤ 12)

/-- R213 item 6: a stride register is 0, or a multiple of 16 and at least the bytes of a row. -/
def strideOk (r row : Nat) : Bool := decide (r = 0 ∨ (r % 16 = 0 ∧ row ≤ r))

/-- R213 items 1 to 6. -/
def CfgRegs.inRange (g : CfgRegs) : Bool :=
  g.reservedClear && dimensionOk g.picWidth && dimensionOk g.picHeight &&
    bitDepthOk g.bitDepthY && (g.chromaFormat == 0 || bitDepthOk g.bitDepthC) &&
    decide (4 ≤ g.log2Ctb ∧ g.log2Ctb ≤ 6) && qpOffsetOk g.cbQpOffset && qpOffsetOk g.crQpOffset &&
    strideOk g.strideYReg.toNat (g.planeW 0 * g.bps 0) &&
    (g.chromaFormat == 0 || strideOk g.strideCReg.toNat (g.planeW 1 * g.bps 1))

/-- R213: the picture is within the limits and every plane fits the 32-bit offsets of the window. -/
def CfgRegs.fits (p : Params) (g : CfgRegs) : Bool :=
  decide (g.picWidth ≤ p.maxPicWidth ∧ g.picHeight ≤ p.maxPicHeight) &&
    g.planes.all fun c => decide (g.planeBytes p.pad c ≤ 2 ^ 32)

/-- `ValidCfg(s)` (R213): the fault of an invalid configuration, `none` for OK. -/
def validCfg (p : Params) (g : CfgRegs) : Option FaultCode :=
  if g.inRange = false then some .codedParameterOutOfRange
  else if g.fits p = false then some .outOfMemory
  else none

/-- A slot right after `PIC_INIT` with configuration `g` (R216): every table at its reset value. -/
def Slot.fresh (g : CfgRegs) : Slot := { Slot.reset with alloc := true, cfg := g }

/-- The effect of `PIC_INIT` (R216). -/
def picInitEffect (slot : BitVec 5) (s : State) : Except FaultCode State :=
  withSlot s slot fun sl =>
    if sl.alloc then .error .imageBufferFull
    else match validCfg s.params sl.cfg with
      | some code => .error code
      | none => .ok { s.setSlot slot (Slot.fresh sl.cfg) with mem := memForget s.mem slot }

/-- `PIC_INIT` (R216). -/
def execPicInit (slot : BitVec 5) (s : State) : Host.Outcome State Fault Refusal :=
  finish 1 s (picInitEffect slot s)

/-- `Integrity` after `PIC_DONE`: Decoded only from NotDecoded (R25, R217). -/
def Integrity.completed : Integrity → Integrity
  | .notDecoded => .decoded
  | .decoded => .decoded
  | .decodingErrors => .decodingErrors
  | .derivedFromErrors => .derivedFromErrors

/-- The effect of `PIC_DONE` (R217). -/
def picDoneEffect (slot : BitVec 5) (s : State) : Except FaultCode State :=
  withInFlight s slot fun sl => .ok (s.setSlot slot { sl with done := true, integrity := sl.integrity.completed })

/-- `PIC_DONE` (R217). -/
def execPicDone (slot : BitVec 5) (s : State) : Host.Outcome State Fault Refusal :=
  finish 1 s (picDoneEffect slot s)

/-- The effect of `PIC_FREE` (R218). -/
def picFreeEffect (slot : BitVec 5) (s : State) : Except FaultCode State :=
  withSlot s slot fun sl =>
    if sl.alloc then .ok (s.setSlot slot { sl with alloc := false }) else .error .slotNotAllocated

/-- `PIC_FREE` (R218). -/
def execPicFree (slot : BitVec 5) (s : State) : Host.Outcome State Fault Refusal :=
  finish 1 s (picFreeEffect slot s)

/-! ## Metadata -/

/-- The effect of `SET_CTB` (R219). -/
def setCtbEffect (slot : BitVec 5) (rx ry : BitVec 16) (ctbAddrTs : BitVec 32) (sliceIdx tileId : BitVec 16)
    (s : State) : Except FaultCode State :=
  withInFlight s slot fun sl =>
    if sl.cfg.ctbInside rx.toNat ry.toNat = false then .error .ctbOutsideImageArea
    else if sl.cfg.widthInCtbs * sl.cfg.heightInCtbs ≤ ctbAddrTs.toNat then .error .codedParameterOutOfRange
    else if s.params.maxSlices ≤ sliceIdx.toNat then .error .maxSlicesExceeded
    else if s.params.maxTiles ≤ tileId.toNat then .error .codedParameterOutOfRange
    else .ok (s.setSlot slot { sl with
      ctbs := tableSet CtbRec.reset sl.ctbs (cellKey rx.toNat ry.toNat) ⟨ctbAddrTs, sliceIdx, tileId, true⟩ })

/-- `SET_CTB` (R219). -/
def execSetCtb (slot : BitVec 5) (rx ry : BitVec 16) (ctbAddrTs : BitVec 32) (sliceIdx tileId : BitVec 16)
    (s : State) : Host.Outcome State Fault Refusal :=
  finish 4 s (setCtbEffect slot rx ry ctbAddrTs sliceIdx tileId s)

/-- A slice offset in -6..6 (R220). -/
def sliceOffsetOk (b : BitVec 4) : Bool := decide (-6 ≤ b.toInt ∧ b.toInt ≤ 6)

/-- The effect of `SET_SLICE` (R220). -/
def setSliceEffect (slot : BitVec 5) (sliceIdx : BitVec 16) (r : SliceRec) (s : State) : Except FaultCode State :=
  withInFlight s slot fun sl =>
    if s.params.maxSlices ≤ sliceIdx.toNat then .error .maxSlicesExceeded
    else if sliceOffsetOk r.betaOffsetDiv2 = false ∨ sliceOffsetOk r.tcOffsetDiv2 = false then
      .error .codedParameterOutOfRange
    else .ok (s.setSlot slot { sl with slices := tableSet SliceRec.reset sl.slices sliceIdx.toNat r })

/-- `SET_SLICE` (R220). -/
def execSetSlice (slot : BitVec 5) (sliceIdx : BitVec 16) (dbkDis lfAcross saoL saoC : Bool) (beta tc : BitVec 4)
    (s : State) : Host.Outcome State Fault Refusal :=
  finish 2 s (setSliceEffect slot sliceIdx ⟨dbkDis, lfAcross, saoL, saoC, beta, tc⟩ s)

/-- The fields `SET_CU` writes in each block (R221). -/
def MetaRec.withCu (m : MetaRec) (intra pcm bypass : Bool) (qpY : BitVec 7) : MetaRec :=
  { m with isIntra := intra, pcm := pcm, bypass := bypass, qpY := qpY, cuSet := true }

/-- The effect of `SET_CU` (R221). -/
def setCuEffect (slot : BitVec 5) (log2Cb : BitVec 3) (intra pcm bypass : Bool) (qpY : BitVec 7) (x y : BitVec 16)
    (s : State) : Except FaultCode State :=
  withInFlight s slot fun sl =>
    let size := 2 ^ log2Cb.toNat
    if log2Cb.toNat < 3 ∨ sl.cfg.log2Ctb < log2Cb.toNat then .error .codedParameterOutOfRange
    else if x.toNat % size ≠ 0 ∨ y.toNat % size ≠ 0 then .error .codedParameterOutOfRange
    else if qpY.toInt < -sl.cfg.qpBdOffset 0 ∨ 51 < qpY.toInt then .error .codedParameterOutOfRange
    else if pcm = true ∧ intra = false then .error .codedParameterOutOfRange
    else if sl.cfg.picWidth < x.toNat + size ∨ sl.cfg.picHeight < y.toNat + size then .error .ctbOutsideImageArea
    else .ok (s.setSlot slot (sl.modifyBlocks x.toNat y.toNat size size fun m => m.withCu intra pcm bypass qpY))

/-- `SET_CU` (R221). -/
def execSetCu (slot : BitVec 5) (log2Cb : BitVec 3) (intra pcm bypass : Bool) (qpY : BitVec 7) (x y : BitVec 16)
    (s : State) : Host.Outcome State Fault Refusal :=
  finish 2 s (setCuEffect slot log2Cb intra pcm bypass qpY x y s)

/-! ## PUT_SAMPLE -/

/-- The effect of `PUT_SAMPLE` (R223). -/
def putSampleEffect (slot : BitVec 5) (c : BitVec 2) (x y value : BitVec 16) (s : State) : Except FaultCode State :=
  withPlane s slot c fun sl =>
    if sl.cfg.planeW c.toNat ≤ x.toNat ∨ sl.cfg.planeH c.toNat ≤ y.toNat then .error .ctbOutsideImageArea
    else if 2 ^ sl.cfg.bitDepth c.toNat ≤ value.toNat then .error .codedParameterOutOfRange
    else .ok (s.setSamples [(sampleAddr slot .recon c.toNat x.toNat y.toNat, Int.ofNat value.toNat)])

/-- `PUT_SAMPLE` (R223). -/
def execPutSample (slot : BitVec 5) (c : BitVec 2) (x y value : BitVec 16) (s : State) :
    Host.Outcome State Fault Refusal :=
  finish 3 s (putSampleEffect slot c x y value s)

/-! ## Progress -/

/-- The effect of `SET_PROGRESS` (R225). -/
def setProgressEffect (slot : BitVec 5) (value : BitVec 3) (rx ry : BitVec 16) (s : State) : Except FaultCode State :=
  withInFlight s slot fun sl =>
    match progressOf value with
    | none => .error .codedParameterOutOfRange
    | some v =>
      if sl.cfg.ctbInside rx.toNat ry.toNat = false then .error .ctbOutsideImageArea
      else if v.toNat < (sl.progressAt rx.toNat ry.toNat).toNat then .error .progressDecrease
      else .ok (s.setSlot slot { sl with
        progress := tableSet Progress.none sl.progress (cellKey rx.toNat ry.toNat) v })

/-- `SET_PROGRESS` (R225). -/
def execSetProgress (slot : BitVec 5) (value : BitVec 3) (rx ry : BitVec 16) (s : State) :
    Host.Outcome State Fault Refusal :=
  finish 2 s (setProgressEffect slot value rx ry s)

/-- One evaluation of `WAIT_PROGRESS` (R226): a fault, or whether the cell has reached the value. -/
def waitReached (slot : BitVec 5) (value : BitVec 3) (rx ry : BitVec 16) (s : State) : Except FaultCode Bool :=
  if s.params.numSlots ≤ slot.toNat then .error .codedParameterOutOfRange
  else if (s.slot slot).alloc = false then .error .slotNotAllocated
  else match progressOf value with
    | none => .error .codedParameterOutOfRange
    | some v =>
      if (s.slot slot).cfg.ctbInside rx.toNat ry.toNat = false then .error .ctbOutsideImageArea
      else .ok (decide (v.toNat ≤ ((s.slot slot).progressAt rx.toNat ry.toNat).toNat))

/-- `WAIT_PROGRESS` (R226): completes once the cell has reached the value; until then it holds and nothing changes
(R237). -/
def execWaitProgress (slot : BitVec 5) (value : BitVec 3) (rx ry : BitVec 16) (s : State) :
    Host.Outcome State Fault Refusal :=
  match waitReached slot value rx ry s with
  | .error code => .next (raise code s)
  | .ok true => .next (complete 2 s)
  | .ok false => .next s

end Sys2Proof.Machine
end

