-- ==== Sys2Proof/Machine/Deblock.lean ====
section
/-! DEFINITION. The deblocking filter (R167 to R189): MARK_TB, MARK_PB, DEBLOCK. A direction is `dir`: false the
vertical edges, true the horizontal edges (R186). -/

namespace Sys2Proof.Machine

/-! ## Edge marking -/

/-- The left boundary of the block is a transform block edge (R168). -/
def MetaRec.withTbEdgeV (m : MetaRec) : MetaRec := { m with tbEdgeV := true }

/-- The top boundary of the block is a transform block edge (R168). -/
def MetaRec.withTbEdgeH (m : MetaRec) : MetaRec := { m with tbEdgeH := true }

/-- The block's transform block has a non-zero level, or not (R168). -/
def MetaRec.withNz (m : MetaRec) (nz : Bool) : MetaRec := { m with nz := nz }

/-- The left boundary of the block is a prediction block edge (R169). -/
def MetaRec.withPbEdgeV (m : MetaRec) : MetaRec := { m with pbEdgeV := true }

/-- The top boundary of the block is a prediction block edge (R169). -/
def MetaRec.withPbEdgeH (m : MetaRec) : MetaRec := { m with pbEdgeH := true }

/-- The motion of a prediction block; an unused list is stored as slot 0 and vector (0, 0) (R169). -/
def MetaRec.withMotion (m : MetaRec) (pf0 pf1 : Bool) (ref0 ref1 : BitVec 5) (mv0 mv1 : Mv) : MetaRec :=
  { m with
    predFlagL0 := pf0
    predFlagL1 := pf1
    refSlotL0 := if pf0 then ref0 else 0
    refSlotL1 := if pf1 then ref1 else 0
    mvL0 := if pf0 then mv0 else Mv.zero
    mvL1 := if pf1 then mv1 else Mv.zero }

/-- A slot after `MARK_TB` of the T × T block at (x, y) (R168). -/
def Slot.markedTb (sl : Slot) (x y T : Nat) (nz : Bool) : Slot :=
  ((sl.modifyBlocks x y 4 T MetaRec.withTbEdgeV).modifyBlocks x y T 4 MetaRec.withTbEdgeH).modifyBlocks x y T T
    fun m => m.withNz nz

/-- A slot after `MARK_PB` of the w × h block at (x, y) (R169). -/
def Slot.markedPb (sl : Slot) (x y w h : Nat) (pf0 pf1 : Bool) (ref0 ref1 : BitVec 5) (mv0 mv1 : Mv) : Slot :=
  ((sl.modifyBlocks x y 4 h MetaRec.withPbEdgeV).modifyBlocks x y w 4 MetaRec.withPbEdgeH).modifyBlocks x y w h
    fun m => m.withMotion pf0 pf1 ref0 ref1 mv0 mv1

/-- The effect of `MARK_TB` (R168). -/
def markTbEffect (slot : BitVec 5) (log2Tb : BitVec 3) (nz : Bool) (x y : BitVec 16) (s : State) :
    Except FaultCode State :=
  withInFlight s slot fun sl =>
    let T : Nat := 2 ^ log2Tb.toNat
    if log2Tb.toNat < 2 ∨ 5 < log2Tb.toNat ∨ x.toNat % T ≠ 0 ∨ y.toNat % T ≠ 0 then .error .codedParameterOutOfRange
    else if sl.cfg.picWidth < x.toNat + T ∨ sl.cfg.picHeight < y.toNat + T then .error .ctbOutsideImageArea
    else .ok (s.setSlot slot (sl.markedTb x.toNat y.toNat T nz))

/-- `MARK_TB` (R168). -/
def execMarkTb (slot : BitVec 5) (log2Tb : BitVec 3) (nz : Bool) (x y : BitVec 16) (s : State) :
    Host.Outcome State Fault Refusal :=
  finish 2 s (markTbEffect slot log2Tb nz x y s)

/-- The effect of `MARK_PB` (R169). -/
def markPbEffect (slot : BitVec 5) (pf0 pf1 : Bool) (ref0 ref1 : BitVec 5) (x y w h : BitVec 16) (mv0 mv1 : Mv)
    (s : State) : Except FaultCode State :=
  withInFlight s slot fun sl =>
    if x.toNat % 4 ≠ 0 ∨ y.toNat % 4 ≠ 0 ∨ pbSizeOk w.toNat = false ∨ pbSizeOk h.toNat = false then
      .error .codedParameterOutOfRange
    else if s.params.numSlots ≤ ref0.toNat ∨ s.params.numSlots ≤ ref1.toNat then .error .codedParameterOutOfRange
    else if sl.cfg.picWidth < x.toNat + w.toNat ∨ sl.cfg.picHeight < y.toNat + h.toNat then
      .error .ctbOutsideImageArea
    else .ok (s.setSlot slot (sl.markedPb x.toNat y.toNat w.toNat h.toNat pf0 pf1 ref0 ref1 mv0 mv1))

/-- `MARK_PB` (R169). -/
def execMarkPb (slot : BitVec 5) (pf0 pf1 : Bool) (ref0 ref1 : BitVec 5)
    (x y w h mv0x mv0y mv1x mv1y : BitVec 16) (s : State) : Host.Outcome State Fault Refusal :=
  finish 5 s (markPbEffect slot pf0 pf1 ref0 ref1 x y w h ⟨mv0x, mv0y⟩ ⟨mv1x, mv1y⟩ s)

/-! ## Boundary strength -/

/-- The picture of a list: its slot, `none` where the list is unused (the -1 of R174). -/
def refOf (used : Bool) (r : BitVec 5) : Option (BitVec 5) := if used then some r else none

/-- The vector of a list, (0, 0) where it is unused (R174). -/
def mvOf (used : Bool) (v : Mv) : Mv := if used then v else Mv.zero

/-- `far(a, b)`: a component differs by 4 quarter samples or more (R174). -/
def Mv.far (a b : Mv) : Bool :=
  decide (4 ≤ absI (a.x.toInt - b.x.toInt) ∨ 4 ≤ absI (a.y.toInt - b.y.toInt))

/-- `MotionBs(mP, mQ)` (R174). -/
def motionBs (mP mQ : MetaRec) : Nat :=
  let p0 := refOf mP.predFlagL0 mP.refSlotL0
  let p1 := refOf mP.predFlagL1 mP.refSlotL1
  let q0 := refOf mQ.predFlagL0 mQ.refSlotL0
  let q1 := refOf mQ.predFlagL1 mQ.refSlotL1
  let vp0 := mvOf mP.predFlagL0 mP.mvL0
  let vp1 := mvOf mP.predFlagL1 mP.mvL1
  let vq0 := mvOf mQ.predFlagL0 mQ.mvL0
  let vq1 := mvOf mQ.predFlagL1 mQ.mvL1
  let straight := vp0.far vq0 || vp1.far vq1
  let crossed := vp0.far vq1 || vp1.far vq0
  if ¬ ((p0 = q0 ∧ p1 = q1) ∨ (p0 = q1 ∧ p1 = q0)) then 1
  else if p0 ≠ p1 then
    if p0 = q0 then straight.toNat else crossed.toNat
  else (straight && crossed).toNat

/-- bS of a filtered segment (R173). -/
def boundaryStrength (transformEdge : Bool) (mP mQ : MetaRec) : Nat :=
  if mP.isIntra || mQ.isIntra then 2
  else if transformEdge && (mP.nz || mQ.nz) then 1
  else motionBs mP mQ

/-- What a segment takes from the metadata: both blocks, Q's slice and bS. -/
structure Segment where
  mP : MetaRec
  mQ : MetaRec
  sq : SliceRec
  bS : Nat
  deriving DecidableEq, Repr

/-- The segment is an edge (R171). -/
def isEdge (dir : Bool) (mQ : MetaRec) : Bool :=
  if dir then mQ.tbEdgeH || mQ.pbEdgeH else mQ.tbEdgeV || mQ.pbEdgeV

/-- The segment is a transform edge (R171). -/
def isTransformEdge (dir : Bool) (mQ : MetaRec) : Bool := if dir then mQ.tbEdgeH else mQ.tbEdgeV

/-- The filter edge flag of R172 but for item 1, from the CTB records of P and Q. -/
def filterEdge (sl : Slot) (cP cQ : CtbRec) : Bool :=
  let sq := sl.sliceAt cQ.sliceIdx
  cP.ctbSet && cQ.ctbSet && (cP.tileId == cQ.tileId || sl.cfg.lfAcrossTiles) &&
    (cP.sliceIdx == cQ.sliceIdx || sq.lfAcrossSlices) && !sq.deblockDisabled

/-- The luma segment at (x, y) when it is an edge and filtered (R170 to R174). -/
def lumaSegment (sl : Slot) (dir : Bool) (x y : Nat) : Option Segment :=
  let xP := if dir then x else x - 1
  let yP := if dir then y - 1 else y
  let mQ := sl.metaAt x y
  let cQ := sl.ctbOf x y
  if (if dir then y else x) = 0 ∨ isEdge dir mQ = false ∨ filterEdge sl (sl.ctbOf xP yP) cQ = false then none
  else some ⟨sl.metaAt xP yP, mQ, sl.sliceAt cQ.sliceIdx,
    boundaryStrength (isTransformEdge dir mQ) (sl.metaAt xP yP) mQ⟩

/-! ## Thresholds -/

/-- `β′(Q)` (R175). -/
def betaPrime (q : Nat) : Int :=
  entry ([0, 0, 0, 0, 0, 0, 0, 0, 0, 0, 0, 0, 0, 0, 0, 0, 6, 7, 8, 9, 10, 11, 12, 13, 14, 15, 16, 17, 18] ++
    [20, 22, 24, 26, 28, 30, 32, 34, 36, 38, 40, 42, 44, 46, 48, 50, 52, 54, 56, 58, 60, 62, 64]) q

/-- `tC′(Q)` (R176). -/
def tcPrime (q : Nat) : Int :=
  entry ([0, 0, 0, 0, 0, 0, 0, 0, 0, 0, 0, 0, 0, 0, 0, 0, 0, 0, 1, 1, 1, 1, 1, 1, 1, 1, 1, 2, 2, 2, 2, 3, 3, 3, 3] ++
    [4, 4, 4, 5, 5, 6, 6, 7, 8, 9, 10, 11, 13, 14, 16, 18, 20, 22, 24]) q

/-- `qPL` (R178). -/
def qpAverage (mP mQ : MetaRec) : Int := shr (mQ.qpY.toInt + mP.qpY.toInt + 1) 1

/-- `β` of a luma segment (R178). -/
def lumaBeta (bd : Nat) (g : Segment) : Int :=
  betaPrime (clip3 0 51 (qpAverage g.mP g.mQ + shl g.sq.betaOffsetDiv2.toInt 1)).toNat * 2 ^ (bd - 8)

/-- `tC` from the QP of a segment (R178, R182). -/
def tcOf (bd : Nat) (qp : Int) (g : Segment) : Int :=
  tcPrime (clip3 0 53 (qp + 2 * ((g.bS : Int) - 1) + shl g.sq.tcOffsetDiv2.toInt 1)).toNat * 2 ^ (bd - 8)

/-- `ChromaQpTable` (R73). -/
def chromaQpTable (qPi : Int) : Int :=
  if qPi < 30 then qPi
  else if 43 ≤ qPi then qPi - 6
  else entry [29, 30, 31, 32, 33, 33, 34, 34, 35, 35, 36, 36, 37] (qPi - 30).toNat

/-- `QpC` of a chroma segment (R182). -/
def chromaSegmentQp (g : CfgRegs) (c : Nat) (e : Segment) : Int :=
  let qPi := qpAverage e.mP e.mQ + (if c = 1 then g.cbQpOffset else g.crQpOffset)
  if g.chromaFormat = 1 then chromaQpTable qPi else min qPi 51

/-! ## Filters -/

/-- One line across an edge, `p0` and `q0` nearest to it (R177). -/
structure Line where
  p0 : Int
  p1 : Int
  p2 : Int
  p3 : Int
  q0 : Int
  q1 : Int
  q2 : Int
  q3 : Int
  deriving DecidableEq, Repr

/-- The decisions of a luma segment: dE, dEp, dEq (R179). -/
inductive LumaDecision where
  /-- dE = 0. -/
  | off
  /-- dE = 1, with dEp and dEq. -/
  | weak (dEp dEq : Bool)
  /-- dE = 2. -/
  | strong
  deriving DecidableEq, Repr

/-- `DecSam` of a line (R179). -/
def decSam (beta tc : Int) (l : Line) (dpq : Int) : Bool :=
  decide (dpq < shr beta 2 ∧ absI (l.p3 - l.p0) + absI (l.q0 - l.q3) < shr beta 3 ∧
    absI (l.p0 - l.q0) < shr (5 * tc + 1) 1)

/-- The activity of the P side of a line (R179). -/
def Line.dp (l : Line) : Int := absI (l.p2 - 2 * l.p1 + l.p0)

/-- The activity of the Q side of a line (R179). -/
def Line.dq (l : Line) : Int := absI (l.q2 - 2 * l.q1 + l.q0)

/-- The decisions of a luma segment from its lines 0 and 3 (R179). -/
def lumaDecision (beta tc : Int) (l0 l3 : Line) : LumaDecision :=
  let side := shr (beta + shr beta 1) 3
  if beta ≤ l0.dp + l0.dq + (l3.dp + l3.dq) then .off
  else if decSam beta tc l0 (2 * (l0.dp + l0.dq)) && decSam beta tc l3 (2 * (l3.dp + l3.dq)) then .strong
  else .weak (decide (l0.dp + l3.dp < side)) (decide (l0.dq + l3.dq < side))

/-- What a line's filter replaces: the new p0, p1, .. and q0, q1, .. (nDp and nDq are the lengths). -/
structure LineResult where
  ps : List Int
  qs : List Int
  deriving DecidableEq, Repr

/-- The luma strong filter (R180). -/
def strongLine (tc : Int) (l : Line) : LineResult :=
  let near := fun (v f : Int) => clip3 (v - 2 * tc) (v + 2 * tc) f
  { ps := [near l.p0 (shr (l.p2 + 2 * l.p1 + 2 * l.p0 + 2 * l.q0 + l.q1 + 4) 3),
           near l.p1 (shr (l.p2 + l.p1 + l.p0 + l.q0 + 2) 2),
           near l.p2 (shr (2 * l.p3 + 3 * l.p2 + l.p1 + l.p0 + l.q0 + 4) 3)]
    qs := [near l.q0 (shr (l.p1 + 2 * l.p0 + 2 * l.q0 + 2 * l.q1 + l.q2 + 4) 3),
           near l.q1 (shr (l.p0 + l.q0 + l.q1 + l.q2 + 2) 2),
           near l.q2 (shr (l.p0 + l.q0 + l.q1 + 3 * l.q2 + 2 * l.q3 + 4) 3)] }

/-- The luma weak filter (R181). -/
def weakLine (bd : Nat) (tc : Int) (dEp dEq : Bool) (l : Line) : LineResult :=
  let raw := shr (9 * (l.q0 - l.p0) - 3 * (l.q1 - l.p1) + 8) 4
  if 10 * tc ≤ absI raw then ⟨[], []⟩
  else
    let delta := clip3 (-tc) tc raw
    let half := shr tc 1
    let deltaP := clip3 (-half) half (shr (shr (l.p2 + l.p0 + 1) 1 - l.p1 + delta) 1)
    let deltaQ := clip3 (-half) half (shr (shr (l.q2 + l.q0 + 1) 1 - l.q1 - delta) 1)
    { ps := clip1 bd (l.p0 + delta) :: if dEp then [clip1 bd (l.p1 + deltaP)] else []
      qs := clip1 bd (l.q0 - delta) :: if dEq then [clip1 bd (l.q1 + deltaQ)] else [] }

/-- A luma line under the decisions of its segment. -/
def lumaLine (bd : Nat) (tc : Int) (d : LumaDecision) (l : Line) : LineResult :=
  match d with
  | .off => ⟨[], []⟩
  | .weak dEp dEq => weakLine bd tc dEp dEq l
  | .strong => strongLine tc l

/-- The chroma filter of a line (R183); `p2`, `p3`, `q2`, `q3` are not used. -/
def chromaLine (bd : Nat) (tc : Int) (l : Line) : LineResult :=
  let delta := clip3 (-tc) tc (shr (shl (l.q0 - l.p0) 2 + l.p1 - l.q1 + 4) 3)
  ⟨[clip1 bd (l.p0 + delta)], [clip1 bd (l.q0 - delta)]⟩

/-! ## Lines in the plane -/

/-- The address of p_i of line `k` of the segment at component position (x, y) (R177). -/
def pAddr (slot : BitVec 5) (dir : Bool) (c x y k i : Nat) : Nat :=
  if dir then sampleAddr slot .recon c (x + k) (y - 1 - i) else sampleAddr slot .recon c (x - 1 - i) (y + k)

/-- The address of q_i of line `k` (R177). -/
def qAddr (slot : BitVec 5) (dir : Bool) (c x y k i : Nat) : Nat :=
  if dir then sampleAddr slot .recon c (x + k) (y + i) else sampleAddr slot .recon c (x + i) (y + k)

/-- Line `k` of the segment at (x, y); a chroma filter uses its four inner samples only (R167). -/
def State.readLine (s : State) (slot : BitVec 5) (dir : Bool) (bd c x y k : Nat) : Line :=
  let p := fun i => s.readSample 0 bd (pAddr slot dir c x y k i)
  let q := fun i => s.readSample 0 bd (qAddr slot dir c x y k i)
  ⟨p 0, p 1, p 2, p 3, q 0, q 1, q 2, q 3⟩

/-- The samples of a block are protected from the loop filters (R184, R198). -/
def loopProtected (g : CfgRegs) (m : MetaRec) : Bool := (g.pcmLoopFilterDisabled && m.pcm) || m.bypass

/-- The writes of one side of a line: value `i` at address `addr i`. -/
def sideWrites (addr : Nat → Nat) (vs : List Int) : List (Nat × Int) := vs.zipIdx.map fun e => (addr e.2, e.1)

/-- The writes of a line, the protected sides left out (R184). -/
def lineWrites (g : CfgRegs) (e : Segment) (slot : BitVec 5) (dir : Bool) (c x y k : Nat) (r : LineResult) :
    List (Nat × Int) :=
  sideWrites (pAddr slot dir c x y k) (if loopProtected g e.mP then [] else r.ps) ++
    sideWrites (qAddr slot dir c x y k) (if loopProtected g e.mQ then [] else r.qs)

/-- The samples a luma segment changes (R178 to R181, R184). -/
def lumaSegmentWrites (s : State) (slot : BitVec 5) (dir : Bool) (x y : Nat) : List (Nat × Int) :=
  let sl := s.slot slot
  match lumaSegment sl dir x y with
  | none => []
  | some e =>
    if e.bS = 0 then []
    else
      let bd := sl.cfg.bitDepth 0
      let beta := lumaBeta bd e
      let tc := tcOf bd (qpAverage e.mP e.mQ) e
      let line := s.readLine slot dir bd 0 x y
      let d := lumaDecision beta tc (line 0) (line 3)
      (List.range 4).flatMap fun k => lineWrites sl.cfg e slot dir 0 x y k (lumaLine bd tc d (line k))

/-- The samples a chroma segment of plane `c` at component position (x, y) changes (R182 to R184). Its anchor is
filtered: an edge with bS 2 (log 14). -/
def chromaSegmentWrites (s : State) (slot : BitVec 5) (dir : Bool) (c x y : Nat) : List (Nat × Int) :=
  let sl := s.slot slot
  match lumaSegment sl dir (x * sl.cfg.subWidthC) (y * sl.cfg.subHeightC) with
  | none => []
  | some e =>
    if e.bS ≠ 2 then []
    else
      let bd := sl.cfg.bitDepth c
      let tc := tcOf bd (chromaSegmentQp sl.cfg c e) e
      (List.range 4).flatMap fun k =>
        lineWrites sl.cfg e slot dir c x y k (chromaLine bd tc (s.readLine slot dir bd c x y k))

/-! ## DEBLOCK -/

/-- The segments of direction `dir` of plane `c` whose Q side lies in CTB (rx, ry) and the picture: every 8 samples
across the edges and every 4 along them, in component samples (R170, R182, R186). -/
def ctbSegments (g : CfgRegs) (dir : Bool) (c rx ry : Nat) : List (Nat × Nat) :=
  let w := g.ctbSize / g.subW c
  let h := g.ctbSize / g.subH c
  let stepX := if dir then 4 else 8
  let stepY := if dir then 8 else 4
  ((List.range (h / stepY)).flatMap fun j => (List.range (w / stepX)).map fun i =>
    (rx * w + stepX * i, ry * h + stepY * j)).filter fun e => decide (e.1 < g.planeW c ∧ e.2 < g.planeH c)

/-- Every sample a `DEBLOCK` changes, each read being of the start state (R186). -/
def deblockWrites (s : State) (slot : BitVec 5) (dir : Bool) (rx ry : Nat) : List (Nat × Int) :=
  let g := (s.slot slot).cfg
  g.planes.flatMap fun c => (ctbSegments g dir c rx ry).flatMap fun e =>
    if c = 0 then lumaSegmentWrites s slot dir e.1 e.2 else chromaSegmentWrites s slot dir c e.1 e.2

/-- The effect of `DEBLOCK` (R186). -/
def deblockEffect (slot : BitVec 5) (dir : Bool) (rx ry : BitVec 16) (s : State) : Except FaultCode State :=
  withInFlight s slot fun sl =>
    if sl.cfg.ctbInside rx.toNat ry.toNat = false then .error .ctbOutsideImageArea
    else .ok (s.setSamples (deblockWrites s slot dir rx.toNat ry.toNat)).drawn

/-- `DEBLOCK` (R186). -/
def execDeblock (slot : BitVec 5) (dir : Bool) (rx ry : BitVec 16) (s : State) : Host.Outcome State Fault Refusal :=
  finish 2 s (deblockEffect slot dir rx ry s)

end Sys2Proof.Machine
end

