-- ==== Sys2Proof/Machine/Inter.lean ====
section
/-! DEFINITION. Inter sample prediction (R141 to R166): the command INTER_PRED. -/

namespace Sys2Proof.Machine

/-! ## Interpolation -/

/-- `fL[frac][i]` for frac 1..3 (R145); frac 0 has no taps. -/
def lumaTaps : List (List Int) :=
  [[], [-1, 4, -10, 58, 17, -5, 1, 0], [-1, 4, -11, 40, 40, -11, 4, -1], [0, 1, -5, 17, 58, -10, 4, -1]]

/-- `fC[frac][i]` for frac 1..7 (R146). -/
def chromaTaps : List (List Int) :=
  [[], [-2, 58, 10, -2], [-4, 54, 16, -2], [-6, 46, 28, -4], [-4, 36, 36, -4], [-4, 28, 46, -6], [-2, 16, 54, -4],
   [-2, 10, 58, -2]]

/-- `shift1` (R147). -/
def interShift1 (bd : Nat) : Nat := min 4 (bd - 8)

/-- `shift3` (R147). -/
def interShift3 (bd : Nat) : Nat := max 2 (14 - bd)

/-- One filtered value: tap `i` of row `frac` on `f i`, i = 0 .. T - 1. -/
def tapSum (taps : List (List Int)) (T frac : Nat) (f : Nat → Int) : Int :=
  sumTo T fun i => entry (taps.getD frac []) i * f i

/-- Separable interpolation at integer position (xInt, yInt) and fraction (xFrac, yFrac), with `T` taps the first of
which stands `off` before the integer position (R149 luma, R151 chroma). `ref u x y` is the reference sample at
(x, y), clamped; `u` tells the reads of one prediction apart (log 3). -/
def interpolate (taps : List (List Int)) (T off bd : Nat) (ref : Nat → Int → Int → Int) (xInt yInt : Int)
    (xFrac yFrac : Nat) : Int :=
  if xFrac = 0 ∧ yFrac = 0 then shl (ref 0 xInt yInt) (interShift3 bd)
  else if yFrac = 0 then shr (tapSum taps T xFrac fun i => ref i (xInt + i - off) yInt) (interShift1 bd)
  else if xFrac = 0 then shr (tapSum taps T yFrac fun i => ref i xInt (yInt + i - off)) (interShift1 bd)
  else
    shr (tapSum taps T yFrac fun n =>
      shr (tapSum taps T xFrac fun i => ref (n * 8 + i) (xInt + i - off) (yInt + n - off)) (interShift1 bd)) 6

/-- `RefL` and `RefC` (R148): the reference sample, its coordinates clamped into the plane. -/
def refSample (s : State) (r : BitVec 5) (c use : Nat) (x y : Int) : Int :=
  let g := (s.slot r).cfg
  s.sample r .out c (clip3 0 (g.planeW c - 1) x).toNat (clip3 0 (g.planeH c - 1) y).toNat use

/-- `predSamplesLX` at sample (x, y) of a block of component `c` with component origin (x0, y0), from reference slot
`r` with luma vector `mv` (R143, R144, R149, R151). `use0` is the first of the 64 reads it may make. -/
def predSampleLX (s : State) (g : CfgRegs) (r : BitVec 5) (mv : Mv) (c x0 y0 use0 x y : Nat) : Int :=
  let ref := fun u => refSample s r c (use0 + u)
  if c = 0 then
    interpolate lumaTaps 8 3 (g.bitDepth c) ref (x0 + shr mv.x.toInt 2 + x) (y0 + shr mv.y.toInt 2 + y)
      (lowBits mv.x.toInt 2) (lowBits mv.y.toInt 2)
  else
    let mvx := Int.tdiv (mv.x.toInt * 2) g.subWidthC
    let mvy := Int.tdiv (mv.y.toInt * 2) g.subHeightC
    interpolate chromaTaps 4 1 (g.bitDepth c) ref (x0 + shr mvx 3 + x) (y0 + shr mvy 3 + y)
      (lowBits mvx 3) (lowBits mvy 3)

/-! ## Weighted sample prediction -/

/-- The explicit weights of a command: EXPL, DENOM, and the weight and offset of each list (R155). -/
structure Weights where
  expl : Bool
  denom : Nat
  w0 : Int
  o0 : Int
  w1 : Int
  o1 : Int
  deriving DecidableEq, Repr

/-- `log2Wd` (R155). -/
def Weights.log2Wd (k : Weights) (bd : Nat) : Nat := k.denom + 14 - bd

/-- Uni-prediction from an intermediate with weight `w` and offset `o` (R153, R156). -/
def weightUni (k : Weights) (bd : Nat) (w o pred : Int) : Int :=
  if k.expl then clip1 bd (shr (pred * w + 2 ^ (k.log2Wd bd - 1)) (k.log2Wd bd) + o)
  else clip1 bd (shr (pred + 2 ^ (14 - bd - 1)) (14 - bd))

/-- Bi-prediction from two intermediates (R154, R157). -/
def weightBi (k : Weights) (bd : Nat) (pred0 pred1 : Int) : Int :=
  if k.expl then
    clip1 bd (shr (pred0 * k.w0 + pred1 * k.w1 + shl (k.o0 + k.o1 + 1) (k.log2Wd bd)) (k.log2Wd bd + 1))
  else clip1 bd (shr (pred0 + pred1 + 2 ^ (15 - bd - 1)) (15 - bd))

/-- The weighted sample of a block with the given prediction flags (R152). -/
def weightedSample (k : Weights) (bd : Nat) (pf0 pf1 : Bool) (pred0 pred1 : Int) : Int :=
  if pf0 && pf1 then weightBi k bd pred0 pred1
  else if pf0 then weightUni k bd k.w0 k.o0 pred0
  else weightUni k bd k.w1 k.o1 pred1

/-! ## Reference checks and integrity -/

/-- What the check of one reference list finds (R158). -/
inductive RefCheck where
  | ok
  /-- No picture is there: a warning, and the command writes no sample. -/
  | missing
  /-- The slot is out of range, the slot itself, or of another geometry: fault 8. -/
  | bad
  deriving DecidableEq, Repr

/-- The two slots agree in width, height, chroma format and bit depths (R158 (c)). -/
def sameFormat (a b : CfgRegs) : Bool :=
  a.picWidth == b.picWidth && a.picHeight == b.picHeight && a.chromaFormat == b.chromaFormat &&
    a.bitDepthY == b.bitDepthY && a.bitDepthC == b.bitDepthC

/-- R158 (a), (b), (c) for a list that is used. -/
def checkRef (s : State) (slot r : BitVec 5) : RefCheck :=
  if s.params.numSlots ≤ r.toNat ∨ r = slot then .bad
  else if (s.slot r).alloc = false then .missing
  else if sameFormat (s.slot r).cfg (s.slot slot).cfg then .ok else .bad

/-- R158 for both lists, L0 first; an unused list is not checked. -/
def checkRefs (s : State) (slot : BitVec 5) (md : MetaRec) : RefCheck :=
  match (if md.predFlagL0 then checkRef s slot md.refSlotL0 else .ok) with
  | .ok => if md.predFlagL1 then checkRef s slot md.refSlotL1 else .ok
  | .missing => .missing
  | .bad => .bad

/-- A reference picture whose integrity is degraded (R160). -/
def Integrity.degraded : Integrity → Bool
  | .notDecoded => false
  | .decoded => false
  | .decodingErrors => true
  | .derivedFromErrors => true

/-- Some list that is used names a degraded picture. -/
def usesDegraded (s : State) (md : MetaRec) : Bool :=
  (md.predFlagL0 && (s.slot md.refSlotL0).integrity.degraded) ||
    (md.predFlagL1 && (s.slot md.refSlotL1).integrity.degraded)

/-- `Integrity(s)` after the command wrote its samples (R160). -/
def propagated (i : Integrity) (degraded : Bool) : Integrity :=
  if degraded ∧ i ≠ .decodingErrors then .derivedFromErrors else i

/-! ## INTER_PRED -/

/-- The sample the command writes at (x, y) of its component block (R141, R152). -/
def interSample (s : State) (g : CfgRegs) (md : MetaRec) (k : Weights) (c x0 y0 x y : Nat) : Int :=
  let use := (y * 64 + x) * 64
  weightedSample k (g.bitDepth c) md.predFlagL0 md.predFlagL1
    (predSampleLX s g md.refSlotL0 md.mvL0 c x0 y0 use x y)
    (predSampleLX s g md.refSlotL1 md.mvL1 c x0 y0 (2 ^ 18 + use) x y)

/-- The state after the samples of the component block and the integrity are written (R141, R160, R165). -/
def writePrediction (s : State) (slot : BitVec 5) (sl : Slot) (md : MetaRec) (k : Weights) (c x y w h : Nat) : State :=
  let g := sl.cfg
  let x0 := x / g.subW c
  let y0 := y / g.subH c
  let ws := blockWrites slot .recon c x0 y0 (w / g.subW c) (h / g.subH c) (interSample s g md k c x0 y0)
  ((s.setSamples ws).setSlot slot { sl with integrity := propagated sl.integrity (usesDegraded s md) }).drawn

/-- The effect of `INTER_PRED` (R165): a block without a list, or with a missing reference, warns and writes no
sample. -/
def interPredEffect (slot : BitVec 5) (c : BitVec 2) (k : Weights) (x y w h : BitVec 16) (s : State) :
    Except FaultCode State :=
  withPlane s slot c fun sl =>
    let md := sl.metaAt x.toNat y.toNat
    if x.toNat % 4 ≠ 0 ∨ y.toNat % 4 ≠ 0 ∨ pbSizeOk w.toNat = false ∨ pbSizeOk h.toNat = false then
      .error .codedParameterOutOfRange
    else if sl.cfg.picWidth < x.toNat + w.toNat ∨ sl.cfg.picHeight < y.toNat + h.toNat then
      .error .ctbOutsideImageArea
    else if md.predFlagL0 = false ∧ md.predFlagL1 = false then .ok (warning .bothPredflagsZero slot s)
    else match checkRefs s slot md with
      | .bad => .error .codedParameterOutOfRange
      | .missing => .ok (warning .nonexistingReferencePictureAccessed slot s)
      | .ok => .ok (writePrediction s slot sl md k c.toNat x.toNat y.toNat w.toNat h.toNat)

/-- `INTER_PRED` (R165). -/
def execInterPred (slot : BitVec 5) (c : BitVec 2) (expl : Bool) (denom : BitVec 3)
    (x y w h wt0 of0 wt1 of1 : BitVec 16) (s : State) : Host.Outcome State Fault Refusal :=
  finish 5 s (interPredEffect slot c ⟨expl, denom.toNat, wt0.toInt, of0.toInt, wt1.toInt, of1.toInt⟩ x y w h s)

end Sys2Proof.Machine
end

