-- ==== Sys2Proof/Machine/Intra.lean ====
section
/-! DEFINITION. Intra sample prediction (R96 to R115): the command INTRA_PRED.

The 4N + 1 reference entries of R97 are held as one list in the order R103 visits them: up the left column from
p[-1][2N-1] to the corner p[-1][-1], then along the top row from p[0][-1] to p[2N-1][-1]. -/

namespace Sys2Proof.Machine

/-! ## The reference entries -/

/-- The place of entry `k` of the reference list relative to the block: (-1, 2N-1-k) up the left column and the corner,
then (k-2N-1, -1) along the top row (R97). -/
def refOffset (N k : Nat) : Int × Int :=
  if k ≤ 2 * N then (-1, 2 * N - 1 - k) else (k - 2 * N - 1, -1)

/-- `p[-1][y]`, y from -1 (the corner) to 2N-1. -/
def leftRef (p : List Int) (N : Nat) (y : Int) : Int := entry p (2 * N - 1 - y).toNat

/-- `p[x][-1]`, x from -1 (the corner) to 2N-1. -/
def topRef (p : List Int) (N : Nat) (x : Int) : Int := entry p (2 * N + 1 + x).toNat

/-- Availability in z-scan order of luma location (xNb, yNb) for the block at (xCur, yCur) (R100). -/
def available (sl : Slot) (xCur yCur : Nat) (xNb yNb : Int) : Bool :=
  if xNb < 0 ∨ yNb < 0 ∨ (sl.cfg.picWidth : Int) ≤ xNb ∨ (sl.cfg.picHeight : Int) ≤ yNb then false
  else
    let nb := sl.ctbOf xNb.toNat yNb.toNat
    let cur := sl.ctbOf xCur yCur
    nb.ctbSet && decide (sl.zAddr xNb.toNat yNb.toNat ≤ sl.zAddr xCur yCur) && nb.sliceIdx == cur.sliceIdx &&
      nb.tileId == cur.tileId

/-- An entry is usable: available, and intra where constrained intra prediction is on (R101). -/
def refUsable (sl : Slot) (xCur yCur : Nat) (xNb yNb : Int) : Bool :=
  available sl xCur yCur xNb yNb &&
    (!sl.cfg.constrainedIntraPred || (sl.metaAt xNb.toNat yNb.toNat).isIntra)

/-- The reference entries of a block of component `c` at (x0, y0), `none` where unavailable (R97 to R102). -/
def references (s : State) (slot : BitVec 5) (c x0 y0 N : Nat) : List (Option Int) :=
  let sl := s.slot slot
  (List.range (4 * N + 1)).map fun k =>
    let x := (x0 : Int) + (refOffset N k).1
    let y := (y0 : Int) + (refOffset N k).2
    if refUsable sl (x0 * sl.cfg.subW c) (y0 * sl.cfg.subH c) (x * sl.cfg.subW c) (y * sl.cfg.subH c) then
      some (s.sample slot .recon c x.toNat y.toNat 0)
    else none

/-! ## Substitution and filtering -/

/-- Each missing entry takes the value before it (R103 (b), (c)). -/
def fillForward (prev : Int) : List (Option Int) → List Int
  | [] => []
  | some v :: t => v :: fillForward v t
  | none :: t => prev :: fillForward prev t

/-- The first entry that is there. -/
def firstAvailable : List (Option Int) → Option Int
  | [] => none
  | some v :: _ => some v
  | none :: t => firstAvailable t

/-- Substitution of unavailable entries (R103): all take mid-grey where none is available; otherwise the first entry
takes the first available value and each later one the value before it. -/
def substitute (bd : Nat) (l : List (Option Int)) : List Int :=
  match firstAvailable l with
  | none => l.map fun _ => 2 ^ (bd - 1)
  | some v => fillForward v l

/-- `intraHorVerDistThres[N]` (R104). -/
def filterThreshold (N : Nat) : Int := if N = 8 then 7 else if N = 16 then 1 else 0

/-- The filter decision (R104). -/
def filterFlag (chromaFormat c mode N : Nat) : Bool :=
  decide ((c = 0 ∨ chromaFormat = 3) ∧ mode ≠ 1 ∧ N ≠ 4 ∧
    filterThreshold N < min (absI ((mode : Int) - 26)) (absI ((mode : Int) - 10)))

/-- The normal [1 2 1] filter (R105): along the list every inner entry has its two neighbours. -/
def normalFilter (N : Nat) (p : List Int) : List Int :=
  (List.range (4 * N + 1)).map fun k =>
    if k = 0 ∨ k = 4 * N then entry p k
    else shr (entry p (k - 1) + 2 * entry p k + entry p (k + 1) + 2) 2

/-- The condition of strong intra smoothing (R106). -/
def strongApplies (g : CfgRegs) (c N : Nat) (p : List Int) : Bool :=
  g.strongIntraSmoothing && decide (c = 0 ∧ N = 32 ∧
    absI (topRef p N (-1) + topRef p N (2 * N - 1) - 2 * topRef p N (N - 1)) < 2 ^ (g.bitDepthY - 5) ∧
    absI (leftRef p N (-1) + leftRef p N (2 * N - 1) - 2 * leftRef p N (N - 1)) < 2 ^ (g.bitDepthY - 5))

/-- The strong (bilinear) filter for N = 32 (R106). -/
def strongFilter (p : List Int) : List Int :=
  let corner := topRef p 32 (-1)
  (List.range 129).map fun k =>
    if k ≤ 63 then
      let y : Int := 63 - k
      if k = 0 then leftRef p 32 63 else shr ((63 - y) * corner + (y + 1) * leftRef p 32 63 + 32) 6
    else if k = 64 then corner
    else
      let x : Int := k - 65
      if k = 128 then topRef p 32 63 else shr ((63 - x) * corner + (x + 1) * topRef p 32 63 + 32) 6

/-- The reference array a prediction uses (R104 to R106). -/
def filteredRefs (g : CfgRegs) (c mode N : Nat) (p : List Int) : List Int :=
  if filterFlag g.chromaFormat c mode N then
    if strongApplies g c N p then strongFilter p else normalFilter N p
  else p

/-! ## Prediction modes -/

/-- Planar (R107). -/
def planarSample (p : List Int) (log2N x y : Nat) : Int :=
  let N : Nat := 2 ^ log2N
  shr (((N : Int) - 1 - x) * leftRef p N y + (x + 1) * topRef p N N + ((N : Int) - 1 - y) * topRef p N x +
    (y + 1) * leftRef p N N + N) (log2N + 1)

/-- `dcVal` (R108). -/
def dcValue (p : List Int) (log2N : Nat) : Int :=
  let N : Nat := 2 ^ log2N
  shr (sumTo N (fun x => topRef p N x) + sumTo N (fun y => leftRef p N y) + N) (log2N + 1)

/-- DC with its boundary filter for luma below 32 (R108). -/
def dcSample (p : List Int) (c log2N x y : Nat) : Int :=
  let N : Nat := 2 ^ log2N
  let dc := dcValue p log2N
  if c = 0 ∧ N < 32 then
    if x = 0 ∧ y = 0 then shr (leftRef p N 0 + 2 * dc + topRef p N 0 + 2) 2
    else if y = 0 then shr (topRef p N x + 3 * dc + 2) 2
    else if x = 0 then shr (leftRef p N y + 3 * dc + 2) 2
    else dc
  else dc

/-- `intraPredAngle` for modes 2..34 (R109). -/
def intraPredAngle (mode : Nat) : Int :=
  entry ([32, 26, 21, 17, 13, 9, 5, 2, 0, -2, -5, -9, -13, -17, -21, -26, -32] ++
    [-26, -21, -17, -13, -9, -5, -2, 0, 2, 5, 9, 13, 17, 21, 26, 32]) (mode - 2)

/-- `invAngle` for modes 11..25 (R109). -/
def invAngle (mode : Nat) : Int :=
  entry [-4096, -1638, -910, -630, -482, -390, -315, -256, -315, -390, -482, -630, -910, -1638, -4096] (mode - 11)

/-- `ref[k]` of R110 over the main side `main` and the other side `side` (each from -1, the corner): the main side
for k ≥ 0, the projected other side below. -/
def angularRef (main side : Int → Int) (mode : Nat) (k : Int) : Int :=
  if 0 ≤ k then main (k - 1) else side (-1 + shr (k * invAngle mode + 128) 8)

/-- The interpolated angular sample: `along` runs along the main side, `away` from it (R110). -/
def angularSample (main side : Int → Int) (mode along away : Nat) : Int :=
  let a := intraPredAngle mode
  let iIdx := shr ((away + 1) * a) 5
  let iFact : Int := lowBits ((away + 1) * a) 5
  shr ((32 - iFact) * angularRef main side mode (along + iIdx + 1) +
    iFact * angularRef main side mode (along + iIdx + 2) + 16) 5

/-- Angular modes 2..34 with the boundary filters of modes 26 and 10 (R110). -/
def angularPredicted (p : List Int) (bd c log2N mode x y : Nat) : Int :=
  let N : Nat := 2 ^ log2N
  if 18 ≤ mode then
    if mode = 26 ∧ c = 0 ∧ N < 32 ∧ x = 0 then
      clip1 bd (topRef p N 0 + shr (leftRef p N y - leftRef p N (-1)) 1)
    else angularSample (topRef p N) (leftRef p N) mode x y
  else
    if mode = 10 ∧ c = 0 ∧ N < 32 ∧ y = 0 then
      clip1 bd (leftRef p N 0 + shr (topRef p N x - topRef p N (-1)) 1)
    else angularSample (leftRef p N) (topRef p N) mode y x

/-- `predSamples[x][y]` from the (filtered) reference array (R107, R108, R110). -/
def predictedSample (p : List Int) (bd c log2N mode x y : Nat) : Int :=
  if mode = 0 then planarSample p log2N x y
  else if mode = 1 then dcSample p c log2N x y
  else angularPredicted p bd c log2N mode x y

/-- The reference array of a block from its gathered entries (R103 to R106). -/
def intraRefs (g : CfgRegs) (refs : List (Option Int)) (c log2N mode : Nat) : List Int :=
  filteredRefs g c mode (2 ^ log2N) (substitute (g.bitDepth c) refs)

/-! ## INTRA_PRED -/

/-- The effect of `INTRA_PRED` (R111). -/
def intraPredEffect (slot : BitVec 5) (c : BitVec 2) (log2N : BitVec 3) (mode : BitVec 6) (x y : BitVec 16)
    (s : State) : Except FaultCode State :=
  withPlane s slot c fun sl =>
    let N : Nat := 2 ^ log2N.toNat
    if log2N.toNat < 2 ∨ 5 < log2N.toNat ∨ 34 < mode.toNat then .error .codedParameterOutOfRange
    else if x.toNat % N ≠ 0 ∨ y.toNat % N ≠ 0 then .error .codedParameterOutOfRange
    else if sl.cfg.planeW c.toNat < x.toNat + N ∨ sl.cfg.planeH c.toNat < y.toNat + N then
      .error .ctbOutsideImageArea
    else
      let p := intraRefs sl.cfg (references s slot c.toNat x.toNat y.toNat N) c.toNat log2N.toNat mode.toNat
      .ok (s.setSamples (blockWrites slot .recon c.toNat x.toNat y.toNat N N
        (predictedSample p (sl.cfg.bitDepth c.toNat) c.toNat log2N.toNat mode.toNat))).drawn

/-- `INTRA_PRED` (R111). -/
def execIntraPred (slot : BitVec 5) (c : BitVec 2) (log2N : BitVec 3) (mode : BitVec 6) (x y : BitVec 16)
    (s : State) : Host.Outcome State Fault Refusal :=
  finish 2 s (intraPredEffect slot c log2N mode x y s)

end Sys2Proof.Machine
end

