-- ==== Sys2Proof/Machine/Sao.lean ====
section
/-! DEFINITION. Sample adaptive offset (R190 to R206): SET_SAO, SAO. -/

namespace Sys2Proof.Machine

/-! ## SET_SAO -/

/-- The record `SET_SAO` stores: type 0 clears every field, type 1 has a band position, type 2 a class (R193). -/
def saoRecord (saoType : BitVec 2) (pos : BitVec 5) (off1 off2 off3 off4 : BitVec 8) : SaoRec :=
  match saoType.toNat with
  | 1 => ⟨.band, pos, 0, off1, off2, off3, off4⟩
  | 2 => ⟨.edge, 0, pos.extractLsb' 0 2, off1, off2, off3, off4⟩
  | _ => SaoRec.reset

/-- The effect of `SET_SAO` (R193). -/
def setSaoEffect (slot : BitVec 5) (c saoType : BitVec 2) (pos : BitVec 5) (rx ry : BitVec 16)
    (off1 off2 off3 off4 : BitVec 8) (s : State) : Except FaultCode State :=
  withPlane s slot c fun sl =>
    if saoType = 3 then .error .codedParameterOutOfRange
    else if saoType = 2 ∧ 3 < pos.toNat then .error .codedParameterOutOfRange
    else if sl.cfg.ctbInside rx.toNat ry.toNat = false then .error .ctbOutsideImageArea
    else .ok (s.setSlot slot { sl with
      saos := tableSet SaoRec.reset sl.saos (saoKey c.toNat rx.toNat ry.toNat)
        (saoRecord saoType pos off1 off2 off3 off4) })

/-- `SET_SAO` (R193). -/
def execSetSao (slot : BitVec 5) (c saoType : BitVec 2) (pos : BitVec 5) (rx ry : BitVec 16)
    (off1 off2 off3 off4 : BitVec 8) (s : State) : Host.Outcome State Fault Refusal :=
  finish 3 s (setSaoEffect slot c saoType pos rx ry off1 off2 off3 off4 s)

/-! ## Classification -/

/-- The displacement of neighbour 0 of a class; neighbour 1 lies opposite (R191). -/
def saoDisplacement (eoClass : BitVec 2) : Int × Int :=
  match eoClass.toNat with
  | 0 => (-1, 0)
  | 1 => (0, -1)
  | 2 => (-1, -1)
  | _ => (1, -1)

/-- `edgeIdx` of a sample `v` whose two neighbours are `a` and `b` (R195). -/
def edgeIdx (v a b : Int) : Nat :=
  match (2 + signI (v - a) + signI (v - b)).toNat with
  | 0 => 1
  | 1 => 2
  | 2 => 0
  | n => n

/-- `bandTable[k]` of a record with band position `pos` (R192). -/
def bandTable (pos : BitVec 5) (k : Nat) : Nat :=
  let d := (k + 32 - pos.toNat) % 32
  if d < 4 then d + 1 else 0

/-- `bandIdx` of a sample `v` (R192, R196). -/
def bandIdx (bd : Nat) (pos : BitVec 5) (v : Int) : Nat := bandTable pos (shr v (bd - 5)).toNat

/-- `offset[idx]` of a record; `offset[0]` is 0 by definition (R37). -/
def SaoRec.offset (r : SaoRec) (idx : Nat) : Int :=
  match idx with
  | 1 => r.offset1.toInt
  | 2 => r.offset2.toInt
  | 3 => r.offset3.toInt
  | 4 => r.offset4.toInt
  | _ => 0

/-- The output of a sample of class `idx` (R190, R201). -/
def saoOutput (bd : Nat) (r : SaoRec) (idx : Nat) (v : Int) : Int := clip3 0 (2 ^ bd - 1) (v + r.offset idx)

/-- Neighbour (xk, yk) of sample (x, y) of plane `c` is usable (the opposite of R197). -/
def saoUsable (sl : Slot) (c x y : Nat) (xk yk : Int) : Bool :=
  let g := sl.cfg
  if xk < 0 ∨ yk < 0 ∨ (g.planeW c : Int) ≤ xk ∨ (g.planeH c : Int) ≤ yk then false
  else
    let xY := x * g.subW c
    let yY := y * g.subH c
    let xkY := xk.toNat * g.subW c
    let ykY := yk.toNat * g.subH c
    let cur := sl.ctbOf xY yY
    let nb := sl.ctbOf xkY ykY
    let later := if sl.zAddr xkY ykY < sl.zAddr xY yY then cur else nb
    nb.ctbSet && (nb.tileId == cur.tileId || g.lfAcrossTiles) &&
      (nb.sliceIdx == cur.sliceIdx || (sl.sliceAt later.sliceIdx).lfAcrossSlices)

/-! ## SAO -/

/-- `SaoSample(s, c, x, y)` (R201); the sample itself and each neighbour it compares with are read once (log 3). -/
def saoSample (s : State) (slot : BitVec 5) (c : Nat) (r : SaoRec) (x y : Nat) : Int :=
  let sl := s.slot slot
  let bd := sl.cfg.bitDepth c
  let use := 3 * cellKey x y
  let v := s.sample slot .recon c x y use
  if loopProtected sl.cfg (sl.blockMeta c x y) then v
  else match r.saoType with
    | .notApplied => v
    | .band => saoOutput bd r (bandIdx bd r.bandPos v) v
    | .edge =>
      let d := saoDisplacement r.eoClass
      if saoUsable sl c x y (x + d.1) (y + d.2) && saoUsable sl c x y (x - d.1) (y - d.2) then
        saoOutput bd r
          (edgeIdx v (s.sample slot .recon c (x + d.1).toNat (y + d.2).toNat (use + 1))
            (s.sample slot .recon c (x - d.1).toNat (y - d.2).toNat (use + 2))) v
      else saoOutput bd r 0 v

/-- SAO is applied to plane `c` of CTB (rx, ry) (R199). -/
def saoApplied (sl : Slot) (c rx ry : Nat) : Bool :=
  let ctb := sl.ctbAt rx ry
  let slice := sl.sliceAt ctb.sliceIdx
  sl.cfg.saoEnabled && ctb.ctbSet && (if c = 0 then slice.saoLuma else slice.saoChroma) &&
    decide ((sl.saoAt c rx ry).saoType ≠ .notApplied)

/-- The value of Out at (x, y) of plane `c` of CTB (rx, ry) (R200). -/
def saoOut (s : State) (slot : BitVec 5) (c rx ry x y : Nat) : Int :=
  let sl := s.slot slot
  if saoApplied sl c rx ry then saoSample s slot c (sl.saoAt c rx ry) x y
  else s.sample slot .recon c x y (3 * cellKey x y)

/-- The first component coordinate of CTB `r` along an axis with subsampling `sub` (R194). -/
def CfgRegs.ctbStart (g : CfgRegs) (r sub : Nat) : Nat := r * g.ctbSize / sub

/-- The samples of the CTB region of plane `c` along an axis of plane length `len` (R194). -/
def CfgRegs.ctbLength (g : CfgRegs) (r sub len : Nat) : Nat :=
  min ((r + 1) * g.ctbSize / sub) len - g.ctbStart r sub

/-- Every sample of Out a `SAO` writes, plane by plane (R200). -/
def saoWrites (s : State) (slot : BitVec 5) (rx ry : Nat) : List (Nat × Int) :=
  let g := (s.slot slot).cfg
  g.planes.flatMap fun c =>
    let x0 := g.ctbStart rx (g.subW c)
    let y0 := g.ctbStart ry (g.subH c)
    blockWrites slot .out c x0 y0 (g.ctbLength rx (g.subW c) (g.planeW c)) (g.ctbLength ry (g.subH c) (g.planeH c))
      fun x y => saoOut s slot c rx ry (x0 + x) (y0 + y)

/-- The effect of `SAO` (R200). -/
def saoEffect (slot : BitVec 5) (rx ry : BitVec 16) (s : State) : Except FaultCode State :=
  withInFlight s slot fun sl =>
    if sl.cfg.ctbInside rx.toNat ry.toNat = false then .error .ctbOutsideImageArea
    else .ok (s.setSamples (saoWrites s slot rx.toNat ry.toNat)).drawn

/-- `SAO` (R200). -/
def execSao (slot : BitVec 5) (rx ry : BitVec 16) (s : State) : Host.Outcome State Fault Refusal :=
  finish 2 s (saoEffect slot rx ry s)

end Sys2Proof.Machine
end

