-- ==== Sys2Proof/Machine/Transform.lean ====
section
/-! DEFINITION. Scaling, the inverse transform and residual reconstruction (R71 to R95): COEF_WRITE, COEF_CLEAR,
SET_SCALING, RESIDUAL. -/

namespace Sys2Proof.Machine

/-! ## Scaling -/

/-- `levelScale[k]` (R74). -/
def levelScale : List Int := [40, 45, 51, 57, 64, 72]

/-- The scaled coefficient of a level with scaling factor `m` (R75, R76). -/
def scaleLevel (bd log2N qp : Nat) (m level : Int) : Int :=
  let bdShift1 := bd + log2N - 5
  clip3 (-32768) 32767 (shr (shl (level * m * entry levelScale (qp % 6)) (qp / 6) + 2 ^ (bdShift1 - 1)) bdShift1)

/-! ## The transform matrices -/

/-- `transMatrixDST`, row k the basis function (R78). -/
def dstMatrix : List (List Int) := [[29, 55, 74, 84], [74, 74, 0, -74], [84, -29, -74, 55], [55, -84, 74, -29]]

/-- `C[0..32]` of R79; `C[0]` is the constant row's entry. -/
def dctCosines : List Int :=
  [64, 90, 90, 90, 89, 88, 87, 85, 83, 82, 80, 78, 75, 73, 70, 67, 64] ++
  [61, 57, 54, 50, 46, 43, 38, 36, 31, 25, 22, 18, 13, 9, 4, 0]

/-- `c(k, n)`, the 32 × 32 DCT matrix (R79). -/
def dctEntry (k n : Nat) : Int :=
  if k = 0 then 64
  else
    let t := k * (2 * n + 1) % 128
    let t := if 64 < t then 128 - t else t
    if t ≤ 32 then entry dctCosines t else -entry dctCosines (64 - t)

/-- Which transform a block takes (R77). -/
inductive TransformType where
  /-- trType 0. -/
  | dct
  /-- trType 1, 4 × 4 only. -/
  | dst
  deriving DecidableEq, Repr

/-- The entry of the N-point matrix: basis function k, sample n (R78, R79). -/
def transformEntry (t : TransformType) (N k n : Nat) : Int :=
  match t with
  | .dct => dctEntry (k * (32 / N)) n
  | .dst => entry (dstMatrix.getD k []) n

/-- The 1-D inverse transform (R80). -/
def transform1D (t : TransformType) (N : Nat) (xs : List Int) : List Int :=
  (List.range N).map fun n => sumTo N fun k => transformEntry t N k n * entry xs k

/-- Columns of a block: `f x 0, ..., f x (N - 1)` for each x. -/
def columns (N : Nat) (f : Nat → Nat → Int) : List (List Int) :=
  (List.range N).map fun x => (List.range N).map (f x)

/-- The 2-D inverse transform before the final shift (R83): columns, the intermediate clip, rows. The result is given
row by row: entry (x, y) is element x of row y. -/
def transform2D (t : TransformType) (N : Nat) (d : Nat → Nat → Int) : List (List Int) :=
  let g := (columns N d).map fun col => (transform1D t N col).map fun e => clip3 (-32768) 32767 (shr (e + 64) 7)
  (List.range N).map fun y => transform1D t N (g.map fun col => entry col y)

/-- The final shift (R86). -/
def finalShift (bd : Nat) (r : Int) : Int :=
  let bdShift2 := 20 - bd
  shr (r + 2 ^ (bdShift2 - 1)) bdShift2

/-- The residual of an N × N block, N = 2^log2N, row by row (R83 to R88): `bypass` copies the levels, `tskip` skips the
transform, else the 2-D transform of type `t` runs. `m` gives the scaling factors. -/
def residualRows (bd log2N qp : Nat) (bypass tskip : Bool) (t : TransformType) (m coef : Nat → Nat → Int) :
    List (List Int) :=
  let N := 2 ^ log2N
  let d := fun x y => scaleLevel bd log2N qp (m x y) (coef x y)
  if bypass then (List.range N).map fun y => (List.range N).map fun x => coef x y
  else if tskip then
    (List.range N).map fun y => (List.range N).map fun x => finalShift bd (shl (d x y) 7)
  else (transform2D t N d).map fun row => row.map (finalShift bd)

/-! ## The coefficient buffer and the scaling table -/

/-- `COEF_WRITE` (R81). -/
def execCoefWrite (cx cy : BitVec 5) (value : BitVec 16) (s : State) : Host.Outcome State Fault Refusal :=
  finish 2 s (.ok (s.setEngine s.cur { s.me with
    coef := tableSet 0#16 s.me.coef (coefKey cx.toNat cy.toNat) value }))

/-- `COEF_CLEAR` (R82). -/
def execCoefClear (s : State) : Host.Outcome State Fault Refusal := finish 1 s (.ok s.clearCoef)

/-- The effect of `SET_SCALING` (R85). -/
def setScalingEffect (slot : BitVec 5) (sizeId : BitVec 2) (matrix : BitVec 3) (sx sy : BitVec 5)
    (value : BitVec 8) (s : State) : Except FaultCode State :=
  withInFlight s slot fun sl =>
    if 5 < matrix.toNat ∨ 4 * 2 ^ sizeId.toNat ≤ sx.toNat ∨ 4 * 2 ^ sizeId.toNat ≤ sy.toNat ∨ value = 0 then
      .error .codedParameterOutOfRange
    else .ok (s.setSlot slot { sl with
      scaling := tableSet scalingReset sl.scaling (scalingKey sizeId.toNat matrix.toNat sx.toNat sy.toNat) value })

/-- `SET_SCALING` (R85). -/
def execSetScaling (slot : BitVec 5) (sizeId : BitVec 2) (matrix : BitVec 3) (sx sy : BitVec 5) (value : BitVec 8)
    (s : State) : Host.Outcome State Fault Refusal :=
  finish 2 s (setScalingEffect slot sizeId matrix sx sy value s)

/-! ## RESIDUAL -/

/-- The scaling factor m[x][y] (R84). -/
def scalingFactor (sl : Slot) (isIntra : Bool) (c log2N x y : Nat) : Int :=
  if sl.cfg.scalingListEnabled then
    Int.ofNat (sl.scalingAt (log2N - 2) (if isIntra then c else 3 + c) x y).toNat
  else 16

/-- The transform type of a block (R77). -/
def transformTypeOf (isIntra : Bool) (c N : Nat) : TransformType :=
  if c = 0 ∧ N = 4 ∧ isIntra = true then .dst else .dct

/-- Some level outside the N × N block is not 0 (R94). -/
def coefOutside (g : Engine) (N : Nat) : Bool :=
  (List.range 32).any fun y => (List.range 32).any fun x => decide ((N ≤ x ∨ N ≤ y) ∧ g.coefAt x y ≠ 0)

/-- The residual of a block of slot `sl` from the executing engine's levels (R94). -/
def blockResidual (sl : Slot) (g : Engine) (c log2N qp x0 y0 : Nat) (tskip : Bool) : List (List Int) :=
  let md := sl.blockMeta c x0 y0
  residualRows (sl.cfg.bitDepth c) log2N qp md.bypass tskip (transformTypeOf md.isIntra c (2 ^ log2N))
    (scalingFactor sl md.isIntra c log2N) g.coefAt

/-- The reconstruction of R89: prediction plus residual, clipped; all reads are of the state at the start. -/
def addResidual (s : State) (slot : BitVec 5) (bd c x0 y0 N : Nat) (res : List (List Int)) : State :=
  s.setSamples (blockWrites slot .recon c x0 y0 N N fun i j =>
    clip1 bd (s.sample slot .recon c (x0 + i) (y0 + j) 0 + entry (res.getD j []) i))

/-- The effect of `RESIDUAL` (R94) but for the clearing of the coefficient buffer. -/
def residualEffect (slot : BitVec 5) (c : BitVec 2) (log2N : BitVec 3) (tskip : Bool) (qp : BitVec 7)
    (x y : BitVec 16) (s : State) : Except FaultCode State :=
  withPlane s slot c fun sl =>
    let N := 2 ^ log2N.toNat
    if log2N.toNat < 2 ∨ 5 < log2N.toNat then .error .codedParameterOutOfRange
    else if x.toNat % N ≠ 0 ∨ y.toNat % N ≠ 0 then .error .codedParameterOutOfRange
    else if sl.cfg.planeW c.toNat < x.toNat + N ∨ sl.cfg.planeH c.toNat < y.toNat + N then
      .error .ctbOutsideImageArea
    else if 51 + sl.cfg.qpBdOffset c.toNat < (qp.toNat : Int) then .error .codedParameterOutOfRange
    else if tskip = true ∧ N ≠ 4 then .error .codedParameterOutOfRange
    else if coefOutside s.me N then .error .coefficientOutOfImageBounds
    else .ok (addResidual s slot (sl.cfg.bitDepth c.toNat) c.toNat x.toNat y.toNat N
      (blockResidual sl s.me c.toNat log2N.toNat qp.toNat x.toNat y.toNat tskip)).drawn

/-- `RESIDUAL` (R94): the coefficient buffer is cleared whether or not the command faults (R40). -/
def execResidual (slot : BitVec 5) (c : BitVec 2) (log2N : BitVec 3) (tskip : Bool) (qp : BitVec 7)
    (x y : BitVec 16) (s : State) : Host.Outcome State Fault Refusal :=
  match residualEffect slot c log2N tskip qp x y s with
  | .ok t => .next (complete 2 t.clearCoef)
  | .error code => .next (raise code s.clearCoef)

end Sys2Proof.Machine
end

