-- ==== Sys2Proof/Machine/Dispatch.lean ====
section
/-! DEFINITION. The meaning of every command of spec/opcode_table.json, one arm each. -/

namespace Sys2Proof.Machine

def exec (i : Instr) (s : State) : Host.Outcome State Fault Refusal :=
  match i with
  | .nop => Sys2Proof.Machine.execNop s
  | .regWrite slot reg value => Sys2Proof.Machine.execRegWrite slot reg value s
  | .picInit slot => Sys2Proof.Machine.execPicInit slot s
  | .picDone slot => Sys2Proof.Machine.execPicDone slot s
  | .picFree slot => Sys2Proof.Machine.execPicFree slot s
  | .setCtb slot rx ry ctbAddrTs sliceIdx tileId => Sys2Proof.Machine.execSetCtb slot rx ry ctbAddrTs sliceIdx tileId s
  | .setSlice slot sliceIdx dbkDis lfAcross saoL saoC beta tc => Sys2Proof.Machine.execSetSlice slot sliceIdx dbkDis lfAcross saoL saoC beta tc s
  | .setCu slot log2Cb intra pcm bypass qpY x y => Sys2Proof.Machine.execSetCu slot log2Cb intra pcm bypass qpY x y s
  | .markTb slot log2Tb nz x y => Sys2Proof.Machine.execMarkTb slot log2Tb nz x y s
  | .markPb slot pf0 pf1 ref0 ref1 x y w h mv0x mv0y mv1x mv1y => Sys2Proof.Machine.execMarkPb slot pf0 pf1 ref0 ref1 x y w h mv0x mv0y mv1x mv1y s
  | .setSao slot c saoType pos rx ry off1 off2 off3 off4 => Sys2Proof.Machine.execSetSao slot c saoType pos rx ry off1 off2 off3 off4 s
  | .setScaling slot sizeId matrix sx sy value => Sys2Proof.Machine.execSetScaling slot sizeId matrix sx sy value s
  | .coefWrite cx cy value => Sys2Proof.Machine.execCoefWrite cx cy value s
  | .coefClear => Sys2Proof.Machine.execCoefClear s
  | .putSample slot c x y value => Sys2Proof.Machine.execPutSample slot c x y value s
  | .intraPred slot c log2N mode x y => Sys2Proof.Machine.execIntraPred slot c log2N mode x y s
  | .residual slot c log2N tskip qp x y => Sys2Proof.Machine.execResidual slot c log2N tskip qp x y s
  | .interPred slot c expl denom x y w h wt0 of0 wt1 of1 => Sys2Proof.Machine.execInterPred slot c expl denom x y w h wt0 of0 wt1 of1 s
  | .deblock slot dir rx ry => Sys2Proof.Machine.execDeblock slot dir rx ry s
  | .sao slot rx ry => Sys2Proof.Machine.execSao slot rx ry s
  | .setProgress slot value rx ry => Sys2Proof.Machine.execSetProgress slot value rx ry s
  | .waitProgress slot value rx ry => Sys2Proof.Machine.execWaitProgress slot value rx ry s

end Sys2Proof.Machine
end

