-- ==== Sys2Proof/Machine/Flags.lean ====
section
/-! DEFINITION. What the host sees of an engine: STATUS, CTRL (R28), and the interrupt line (R238). The RBE has no
condition flags (R23); `STATE` is computed, never stored (log 11). -/

namespace Sys2Proof.Machine

/-- `STATUS(e).STATE` (R28). -/
inductive EngineState where
  | idle
  | running
  | held
  | faulted
  deriving DecidableEq, Repr

/-- The number of a STATE (R28). -/
def EngineState.code : EngineState → Nat
  | .idle => 0
  | .running => 1
  | .held => 2
  | .faulted => 3

/-- The command is a `WAIT_PROGRESS` whose checks pass and whose condition is false (R28, R226). -/
def holds (i : Instr) (s : State) : Bool :=
  match i with
  | .waitProgress slot value rx ry =>
    match waitReached slot value rx ry s with
    | .ok false => true
    | .ok true => false
    | .error _ => false
  | _ => false

/-- The command at the head of a queue holds. -/
def headHolds (q : List Word) (s : State) : Bool :=
  match decode q with
  | .ok i => holds i s
  | .error _ => false

/-- `STATUS(e).STATE` (R28, C10): an engine without a complete command at its head is IDLE. -/
def State.engineState (s : State) (e : BitVec 5) : EngineState :=
  let g := s.engine e
  if g.faulted then .faulted
  else if holdsCommand g.queue = false then .idle
  else if headHolds g.queue s then .held
  else .running

/-- The word `STATUS(e)`: STATE in bits [1:0], the others 0 (R28). -/
def State.statusWord (s : State) (e : BitVec 5) : Word := BitVec.ofNat 32 (s.engineState e).code

/-- The word `CTRL(e)`: IRQ_EN in bit [0], the others 0 (R28). -/
def Engine.ctrlWord (g : Engine) : Word := BitVec.ofNat 32 g.irqEn.toNat

/-- The interrupt line (R238). -/
def State.irq (s : State) : Bool :=
  (List.range s.params.numEngines).any fun e =>
    (s.engine (BitVec.ofNat 5 e)).faulted && (s.engine (BitVec.ofNat 5 e)).irqEn

/-- Host interrupt input `i`: the line drives input `IRQ_ROUTING` (R238, log 21). -/
def State.irqInput (s : State) (i : Nat) : Bool := decide (i = s.params.irqRouting) && s.irq

end Sys2Proof.Machine
end

