-- ==== Sys2Proof/Machine/HostOps.lean ====
section
/-! DEFINITION. The host's operations (R240, R241, R60), each one indivisible step. What an operation returns is left in
`reply` (log 17). -/

namespace Sys2Proof.Machine

/-- The host operation ends with reply `r`. -/
def State.replied (s : State) (r : HostReply) : State := { s with reply := r }

/-! ## Engine registers -/

/-- `push(e, w)` (R240): refused with FULL when the queue holds QUEUE_DEPTH words. -/
def hostPush (e : BitVec 5) (w : Word) (s : State) : State :=
  let g := s.engine e
  if s.params.queueDepth ≤ g.queue.length then s.replied .full
  else (s.setEngine e { g with queue := g.queue ++ [w] }).replied .done

/-- `read_status(e)` (R240). -/
def hostReadStatus (e : BitVec 5) (s : State) : State :=
  let g := s.engine e
  s.replied (.status (s.statusWord e) g.errCode g.errCmd g.ctrlWord g.cmdCount g.queue.length)

/-- `write_ctrl(e, v)` (R240): the bits of v above bit 0 are ignored (I11). -/
def hostWriteCtrl (e : BitVec 5) (v : Word) (s : State) : State :=
  (s.setEngine e { s.engine e with irqEn := v.getLsbD 0 }).replied .done

/-! ## Slot registers -/

/-- `read_cfg(s, r)` (R240). -/
def hostReadCfg (n : BitVec 5) (r : BitVec 8) (s : State) : State := s.replied (.value ((s.slot n).cfg.read r))

/-- `read_slot(s)` (R240). -/
def hostReadSlot (n : BitVec 5) (s : State) : State :=
  let sl := s.slot n
  s.replied (.value (BitVec.ofNat 32 (sl.alloc.toNat + 2 * sl.done.toNat + 4 * sl.integrity.code)))

/-- What `read_progress` returns: 0 outside the CTB array (R240). While the slot is allocated the array is that of its
configuration; a freed slot keeps the cells its last `PIC_INIT` sized (R216, R218; log 22). -/
def Slot.hostProgress (sl : Slot) (rx ry : Nat) : Nat :=
  if sl.alloc && !sl.cfg.ctbInside rx ry then 0 else (sl.progressAt rx ry).toNat

/-- `read_progress(s, rx, ry)` (R240). -/
def hostReadProgress (n : BitVec 5) (rx ry : BitVec 16) (s : State) : State :=
  s.replied (.value (BitVec.ofNat 32 ((s.slot n).hostProgress rx.toNat ry.toNat)))

/-! ## The sample window -/

/-- The bytes of the access `(a, n)`, the lowest address first. -/
def State.windowBytes (s : State) (a : BitVec 40) (n : Nat) : List WindowByte :=
  (List.range n).map fun i => s.windowByte (windowSlot a) (windowSet a) (windowPlane a) (windowOffset a + i)

/-- The access is refused: its width is not 1, 2 or 4, it is misaligned, or a byte is outside the window (R52). -/
def State.windowRefuses (s : State) (a : BitVec 40) (n : Nat) : Bool :=
  decide (n ≠ 1 ∧ n ≠ 2 ∧ n ≠ 4) || decide (windowOffset a % n ≠ 0) || decide (.outside ∈ s.windowBytes a n)

/-- Byte `i` of an unwritten sample of bit depth `bd`, at window address `phys` (R60): unspecified, but the sample is a
value of the range 0..2^bd - 1 (I2, I26), so the bits above `bd` are 0 (log 4). -/
def State.freeWindowByte (s : State) (phys bd i : Nat) : Byte :=
  BitVec.ofNat 8 ((Config.freeByte s.draws phys).toNat % 2 ^ (bd - 8 * i))

/-- The byte the host reads at window address `phys` (R60): the stored byte of a sample; an unspecified byte for
padding and for an unwritten sample (log 4). -/
def State.hostByte (s : State) (phys : Nat) (b : WindowByte) : Byte :=
  match b with
  | .sample n set c x y i =>
    match memByte? s.mem (sampleAddr n set c x y + i) with
    | some v => v
    | none => s.freeWindowByte phys ((s.slot n).cfg.bitDepth c) i
  | .padding => Config.freeByte s.draws phys
  | .outside => 0

/-- Little-endian assembly (R50): byte `i` has weight 2^(8 i). -/
def assembleBytes : List Byte → Nat
  | [] => 0
  | b :: t => b.toNat + 256 * assembleBytes t

/-- `MemRead(a, n)` (R60). -/
def hostMemRead (a : BitVec 40) (n : Nat) (s : State) : State :=
  if s.windowRefuses a n then s.replied (.error FaultCode.codedParameterOutOfRange.code)
  else
    let bytes := (s.windowBytes a n).zipIdx.map fun b => s.hostByte (a.toNat + b.2) b.1
    (s.drawn).replied (.value (BitVec.ofNat 32 (assembleBytes bytes)))

/-- Write one byte at window address `phys` (R53, R60). A one-byte sample takes the byte and no other bits (log 7). In
an unwritten two-byte sample the other byte takes an unspecified value of the sample range (log 6). -/
def State.hostSetByte (s : State) (mem : List Host.Cell) (phys : Nat) (b : WindowByte) (v : Byte) : List Host.Cell :=
  match b with
  | .sample n set c x y i =>
    let addr := sampleAddr n set c x y
    if (s.slot n).cfg.bps c = 1 then memSetSample mem addr (v.zeroExtend 16)
    else
      let other := addr + (1 - i)
      let mem := match memByte? mem other with
        | some _ => mem
        | none => memSetByte mem other (s.freeWindowByte phys ((s.slot n).cfg.bitDepth c) (1 - i))
      memSetByte mem (addr + i) v
  | .padding => mem
  | .outside => mem

/-- `MemWrite(a, n, v)` (R60): byte `i` of `v` goes to address a + i. -/
def hostMemWrite (a : BitVec 40) (n : Nat) (v : Word) (s : State) : State :=
  if s.windowRefuses a n then s.replied (.error FaultCode.codedParameterOutOfRange.code)
  else
    let mem := (s.windowBytes a n).zipIdx.foldl
      (fun m b => s.hostSetByte m (a.toNat + b.2) b.1 (v.extractLsb' (8 * b.2) 8)) s.mem
    ({ s with mem := mem }.drawn).replied .done

/-! ## Warnings and reset -/

/-- `get_warning()` (R241). -/
def hostGetWarning (s : State) : State :=
  if s.warnOverflow then
    { s with warnOverflow := false }.replied (.value (WarningCode.warningBufferFull.code.zeroExtend 32))
  else match s.warn with
    | [] => s.replied (.value 0)
    | w :: rest => { s with warn := rest }.replied (.value (w.zeroExtend 32))

/-- `reset()` (R240, R250). -/
def hostReset (s : State) : State := (resetAll s).replied .done

/-! ## One host operation -/

/-- An operation on engine `e` when it exists (log 10). -/
def onEngine (s : State) (e : BitVec 5) (f : State → State) : Host.Outcome State Fault Refusal :=
  if s.params.numEngines ≤ e.toNat then .fault (.noSuchEngine e) else .next (f s)

/-- An operation on slot `n` when it exists (log 10). -/
def onSlot (s : State) (n : BitVec 5) (f : State → State) : Host.Outcome State Fault Refusal :=
  if s.params.numSlots ≤ n.toNat then .fault (.noSuchSlot n) else .next (f s)

/-- One host operation (R240). -/
def hostStep (op : HostOp) (s : State) : Host.Outcome State Fault Refusal :=
  match op with
  | .push e w => onEngine s e (hostPush e w)
  | .readStatus e => onEngine s e (hostReadStatus e)
  | .writeCtrl e v => onEngine s e (hostWriteCtrl e v)
  | .readCfg n r => onSlot s n (hostReadCfg n r)
  | .readSlot n => onSlot s n (hostReadSlot n)
  | .readProgress n rx ry => onSlot s n (hostReadProgress n rx ry)
  | .memRead a n => .next (hostMemRead a n s)
  | .memWrite a n v => .next (hostMemWrite a n v s)
  | .getWarning => .next (hostGetWarning s)
  | .reset => .next (hostReset s)

end Sys2Proof.Machine
end

