-- ==== Sys2Proof/Machine/Turn.lean ====
section
/-! DEFINITION. One move of the interleaving (R54, R55): which move is next, an engine's turn (R228), a host operation;
and the placing of a command where the next step runs it. -/

namespace Sys2Proof.Machine

/-- A decode fault (R63, R229). A RESIDUAL clears its engine's coefficient buffer whether or not it faults, and a
RESIDUAL that does not decode is read as one (R40, R230; log 13). -/
def illegal (s : State) : State :=
  match s.me.queue with
  | [] => raise .illegalCommand s
  | w0 :: _ => if opField w0 = 0x21#8 then raise .illegalCommand s.clearCoef else raise .illegalCommand s

/-- The executing engine steps (R228): a FAULTED engine and one with an incomplete command do nothing. -/
def engineStep (s : State) : Host.Outcome State Fault Refusal :=
  if s.me.faulted then .next s
  else match decode s.me.queue with
    | .ok i => exec i s
    | .error .incomplete => .next s
    | .error .unknownOpcode => .next (illegal s)
    | .error .reservedBitSet => .next (illegal s)
    | .error .slotNamed => .next (illegal s)
    | .error .badComponent => .next (illegal s)

/-- The turn of engine `e` (R236); no engine has a number of NUM_ENGINES or more (log 10). -/
def engineTurn (e : BitVec 5) (s : State) : Host.Outcome State Fault Refusal :=
  if s.params.numEngines ≤ e.toNat then .fault (.noSuchEngine e) else engineStep { s with cur := e }

/-- The next move: the head of the agenda, or a freely chosen engine when it is empty (R55, I6; log 2). -/
def State.nextEvent (s : State) : Event :=
  match s.agenda with
  | ev :: _ => ev
  | [] => .engine (BitVec.ofNat 5 (Config.freeEngine s.ticks % s.params.numEngines))

/-- The state once the next move is taken off the agenda. -/
def State.advanceAgenda (s : State) : State :=
  match s.agenda with
  | _ :: rest => { s with agenda := rest }
  | [] => { s with ticks := s.ticks + 1 }

/-- One move. -/
def runEvent (ev : Event) (s : State) : Host.Outcome State Fault Refusal :=
  match ev with
  | .engine e => engineTurn e s
  | .host op => hostStep op s

/-- Engine 0's queue holds `words`, it is not FAULTED, and its turn is the next move (log 15). -/
def State.placeCommand (s : State) (words : List Word) : State :=
  { s.setEngine 0 { s.engine 0 with queue := words, faulted := false } with agenda := .engine 0 :: s.agenda }

end Sys2Proof.Machine
end

