-- ==== Sys2Proof/Machine/Step.lean ====
section
/-! DEFINITION. The step of the machine, and the placing of a command where the next step fetches it. -/

namespace Sys2Proof.Machine

/-- One step of the RBE: the next move of the interleaving (R55). -/
def step (s : State) : Host.Outcome State Fault Refusal := runEvent s.nextEvent s.advanceAgenda

/-- The command whose bits are `w`, at the head of engine 0's queue, with engine 0's turn next (log 15). -/
def State.withFetchWord (s : State) (nbits w : Nat) : State := s.placeCommand (tableWords nbits w)

end Sys2Proof.Machine
end

