-- ==== Sys2Proof/Safety.lean ====
section
/-! DEFINITION. The terms of the statements: a legal state, what a command leaves alone, when it may act, a fault, a fair
run (R57), and an ordered command, one whose waits of R252 to R255 are met. -/

namespace Sys2Proof.Machine

/-! ## Legal states -/

/-- Every listed byte has the other byte of its sample beside it: a sample is written whole or not at all (R32). -/
def memPaired (m : List Host.Cell) : Bool :=
  m.all fun c => (memByte? m (if c.1 % 2 = 0 then c.1 + 1 else c.1 - 1)).isSome

/-- A metadata record some commands write (R33, R169, R221). -/
def MetaRec.legal (p : Params) (m : MetaRec) : Bool :=
  (!m.pcm || m.isIntra) && decide (m.refSlotL0.toNat < p.numSlots ∧ m.refSlotL1.toNat < p.numSlots) &&
    (m.predFlagL0 || decide (m.refSlotL0 = 0 ∧ m.mvL0 = Mv.zero)) &&
    (m.predFlagL1 || decide (m.refSlotL1 = 0 ∧ m.mvL1 = Mv.zero))

/-- A CTB record `SET_CTB` writes (R219). -/
def CtbRec.legal (p : Params) (r : CtbRec) : Bool :=
  r.ctbSet && decide (r.sliceIdx.toNat < p.maxSlices ∧ r.tileId.toNat < p.maxTiles)

/-- A slice record `SET_SLICE` writes (R36, R220). -/
def SliceRec.legal (r : SliceRec) : Bool := sliceOffsetOk r.betaOffsetDiv2 && sliceOffsetOk r.tcOffsetDiv2

/-- An SAO record `SET_SAO` writes: the fields its type does not use are 0 (R193). -/
def SaoRec.legal (r : SaoRec) : Bool :=
  match r.saoType with
  | .notApplied => decide (r = SaoRec.reset)
  | .band => r.eoClass == 0
  | .edge => r.bandPos == 0

/-- Every table of the slot is in canonical form. -/
def Slot.tablesWf (sl : Slot) : Bool :=
  tableWf MetaRec.reset sl.blocks && tableWf CtbRec.reset sl.ctbs && tableWf SliceRec.reset sl.slices &&
    tableWf SaoRec.reset sl.saos && tableWf Progress.none sl.progress && tableWf scalingReset sl.scaling

/-- Every record of the slot is one a command can write. -/
def Slot.recordsLegal (p : Params) (sl : Slot) : Bool :=
  (sl.blocks.all fun e => e.2.legal p) && (sl.ctbs.all fun e => e.2.legal p) && (sl.slices.all fun e => e.2.legal) &&
    (sl.saos.all fun e => e.2.legal) && sl.scaling.all fun e => e.2 != 0

/-- The QpY of a block is in range for the slot's luma bit depth (R33). -/
def qpYInRange (g : CfgRegs) (m : MetaRec) : Bool := decide (-g.qpBdOffset 0 ≤ m.qpY.toInt ∧ m.qpY.toInt ≤ 51)

/-- The life cycle (R24, R25, R212): an allocated slot has a valid configuration and QPs in its range; a slot in flight
is not Decoded; a done slot is not NotDecoded. -/
def Slot.lifeLegal (p : Params) (sl : Slot) : Bool :=
  (!sl.alloc || (decide (validCfg p sl.cfg = none) && sl.blocks.all fun e => qpYInRange sl.cfg e.2)) &&
    (!sl.inFlight || decide (sl.integrity ≠ .decoded)) && (!sl.done || decide (sl.integrity ≠ .notDecoded))

/-- The codes ERRCODE can hold: 0, or a fault of R232. -/
def errCodes : List (BitVec 16) := [0, 4, 6, 7, 8, 9, 501, 900, 901, 902, 903]

/-- An engine's registers agree (R22, R28, R230): the queue fits; without a fault ERRCODE and ERRCMD are 0; a FAULTED
engine holds a fault's code and the index of its command. -/
def Engine.legal (p : Params) (g : Engine) : Bool :=
  decide (g.queue.length ≤ p.queueDepth) && tableWf 0#16 g.coef && decide (g.errCode ∈ errCodes) &&
    (if g.faulted then decide (g.errCode ≠ 0 ∧ g.errCmd = g.cmdCount) else decide (g.errCode = 0 ∧ g.errCmd = 0))

/-- The state is one the rules allow. -/
structure State.Legal (s : State) : Prop where
  params : s.params.legal = true
  memory : memWf s.mem = true
  samples : memPaired s.mem = true
  tables : ∀ n, (s.slot n).tablesWf = true
  records : ∀ n, (s.slot n).recordsLegal s.params = true
  life : ∀ n, (s.slot n).lifeLegal s.params = true
  engines : ∀ e, (s.engine e).legal s.params = true
  warnings : s.warn.length ≤ s.params.warnDepth
  warningCodes : ∀ w ∈ s.warn, w = 1011 ∨ w = 1012

/-! ## What a command leaves alone -/

/-- How a command of `len` words leaves the engines when it completes (R22, R41): its own engine has the words removed
and one more command counted, with its error registers and interrupt enable as before; no other engine changes. Nor do
the parameters, the order of the moves still to come, and the last host reply. -/
structure Completed (len : Nat) (s t : State) : Prop where
  queue : t.me.queue = s.me.queue.drop len
  cmdCount : t.me.cmdCount = s.me.cmdCount + 1
  faulted : t.me.faulted = s.me.faulted
  errCode : t.me.errCode = s.me.errCode
  errCmd : t.me.errCmd = s.me.errCmd
  irqEn : t.me.irqEn = s.me.irqEn
  others : ∀ e, e ≠ s.cur → t.engine e = s.engine e
  cur : t.cur = s.cur
  params : t.params = s.params
  agenda : t.agenda = s.agenda
  ticks : t.ticks = s.ticks
  reply : t.reply = s.reply

/-- The executing engine's coefficient buffer is as before. -/
def KeepsCoef (s t : State) : Prop := t.me.coef = s.me.coef

/-- Every slot is as before. -/
def KeepsSlots (s t : State) : Prop := ∀ n, t.slot n = s.slot n

/-- Every slot but `n` is as before. -/
def KeepsOtherSlots (n : BitVec 5) (s t : State) : Prop := ∀ m, m ≠ n → t.slot m = s.slot m

/-- Every byte of memory reads as before. -/
def KeepsMemory (s t : State) : Prop := ∀ a, memByte? t.mem a = memByte? s.mem a

/-- Every byte of memory outside `P` reads as before. -/
def KeepsMemoryBut (P : Nat → Prop) (s t : State) : Prop := ∀ a, ¬ P a → memByte? t.mem a = memByte? s.mem a

/-- The warning queue and its overflow flag are as before. -/
def KeepsWarnings (s t : State) : Prop := t.warn = s.warn ∧ t.warnOverflow = s.warnOverflow

/-- Address `a` is one of the two bytes of a sample of the `w` by `h` block at (x, y). -/
def InBlock (n : BitVec 5) (set : PlaneSet) (c x y w h a : Nat) : Prop :=
  ∃ i j, i < w ∧ j < h ∧ (a = sampleAddr n set c (x + i) (y + j) ∨ a = sampleAddr n set c (x + i) (y + j) + 1)

/-- A command of `len` words that changes slot `n` alone: beside the slot, only the executing engine's queue and
counter. -/
structure ChangesSlot (len : Nat) (n : BitVec 5) (s t : State) : Prop where
  completed : Completed len s t
  coef : KeepsCoef s t
  slots : KeepsOtherSlots n s t
  memory : KeepsMemory s t
  warnings : KeepsWarnings s t

/-- A command of `len` words that changes samples alone, those at addresses `P`. -/
structure ChangesSamples (len : Nat) (P : Nat → Prop) (s t : State) : Prop where
  completed : Completed len s t
  slots : KeepsSlots s t
  memory : KeepsMemoryBut P s t
  warnings : KeepsWarnings s t

/-! ## When a command may act -/

/-- Slot `n` exists and is in flight (R24). -/
def InFlight (s : State) (n : BitVec 5) : Prop := n.toNat < s.params.numSlots ∧ (s.slot n).inFlight = true

/-- Component `c` of slot `n` can be worked on (R231). -/
def PlaneReady (s : State) (n : BitVec 5) (c : BitVec 2) : Prop :=
  componentOk c = true ∧ InFlight s n ∧ (s.slot n).cfg.planeExists c.toNat = true

/-- A block of 2^k samples aligned to its size and inside plane `c` (R94, R111). -/
def BlockInPlane (g : CfgRegs) (c k x y : Nat) : Prop :=
  2 ≤ k ∧ k ≤ 5 ∧ x % 2 ^ k = 0 ∧ y % 2 ^ k = 0 ∧ x + 2 ^ k ≤ g.planeW c ∧ y + 2 ^ k ≤ g.planeH c

/-- A luma prediction block of legal size and place (R165, R169). -/
def PbInPicture (g : CfgRegs) (x y w h : Nat) : Prop :=
  x % 4 = 0 ∧ y % 4 = 0 ∧ pbSizeOk w = true ∧ pbSizeOk h = true ∧ x + w ≤ g.picWidth ∧ y + h ≤ g.picHeight

/-- The reference slot `r` of slot `n` passes every check of R158. -/
def RefGood (s : State) (n r : BitVec 5) : Prop :=
  r.toNat < s.params.numSlots ∧ r ≠ n ∧ (s.slot r).alloc = true ∧ sameFormat (s.slot r).cfg (s.slot n).cfg = true

/-- The reference slot `r` of slot `n` holds no picture (R158 (b)). -/
def RefMissing (s : State) (n r : BitVec 5) : Prop :=
  r.toNat < s.params.numSlots ∧ r ≠ n ∧ (s.slot r).alloc = false

/-- The reference slot `r` of slot `n` does not exist, is slot `n` itself (R158 (a)), or is of another format
(R158 (c)). -/
def RefBad (s : State) (n r : BitVec 5) : Prop :=
  s.params.numSlots ≤ r.toNat ∨ r = n ∨
    ((s.slot r).alloc = true ∧ sameFormat (s.slot r).cfg (s.slot n).cfg = false)

/-- A position is aligned to blocks of 2^k samples, k from 2 to 5 (R94, R111, R168). -/
def BlockAligned (k x y : Nat) : Prop := 2 ≤ k ∧ k ≤ 5 ∧ x % 2 ^ k = 0 ∧ y % 2 ^ k = 0

/-- A luma prediction block is of legal size at a legal position (R165, R169). -/
def PbAligned (x y w h : Nat) : Prop := x % 4 = 0 ∧ y % 4 = 0 ∧ pbSizeOk w = true ∧ pbSizeOk h = true

/-- The checks a command makes before that of its place in the picture are passed; `False` for a command that makes no
such check (the thirteen commands of code 6 in R232). -/
def ReachesPlaceCheck (s : State) : Instr → Prop
  | .nop => False
  | .regWrite _ _ _ => False
  | .picInit _ => False
  | .picDone _ => False
  | .picFree _ => False
  | .setCtb n _ _ _ _ _ => InFlight s n
  | .setSlice _ _ _ _ _ _ _ _ => False
  | .setCu n k intra pcm _ q x y => InFlight s n ∧ 3 ≤ k.toNat ∧ k.toNat ≤ (s.slot n).cfg.log2Ctb ∧
      x.toNat % 2 ^ k.toNat = 0 ∧ y.toNat % 2 ^ k.toNat = 0 ∧ -(s.slot n).cfg.qpBdOffset 0 ≤ q.toInt ∧
      q.toInt ≤ 51 ∧ (pcm = true → intra = true)
  | .markTb n k _ x y => InFlight s n ∧ BlockAligned k.toNat x.toNat y.toNat
  | .markPb n _ _ ref0 ref1 x y w h _ _ _ _ => InFlight s n ∧ PbAligned x.toNat y.toNat w.toNat h.toNat ∧
      ref0.toNat < s.params.numSlots ∧ ref1.toNat < s.params.numSlots
  | .setSao n c ty pos _ _ _ _ _ _ => PlaneReady s n c ∧ ty ≠ 3 ∧ (ty = 2 → pos.toNat ≤ 3)
  | .setScaling _ _ _ _ _ _ => False
  | .coefWrite _ _ _ => False
  | .coefClear => False
  | .putSample n c _ _ _ => PlaneReady s n c
  | .intraPred n c k mode x y => PlaneReady s n c ∧ BlockAligned k.toNat x.toNat y.toNat ∧ mode.toNat ≤ 34
  | .residual n c k _ _ x y => PlaneReady s n c ∧ BlockAligned k.toNat x.toNat y.toNat
  | .interPred n c _ _ x y w h _ _ _ _ => PlaneReady s n c ∧ PbAligned x.toNat y.toNat w.toNat h.toNat
  | .deblock n _ _ _ => InFlight s n
  | .sao n _ _ => InFlight s n
  | .setProgress n v _ _ => InFlight s n ∧ v.toNat ≤ 4
  | .waitProgress n v _ _ => n.toNat < s.params.numSlots ∧ (s.slot n).alloc = true ∧ v.toNat ≤ 4

/-- (rx, ry) is no CTB of the picture. -/
def CtbOutside (g : CfgRegs) (rx ry : BitVec 16) : Prop := g.widthInCtbs ≤ rx.toNat ∨ g.heightInCtbs ≤ ry.toNat

/-- A `w` by `h` block at (x, y) is not inside plane `c`. -/
def BlockOutside (g : CfgRegs) (c x y w h : Nat) : Prop := g.planeW c < x + w ∨ g.planeH c < y + h

/-- The place a command names lies outside the picture of its slot, whose configuration is `g` (code 6 of R232); `False`
for a command without a place. -/
def OutsidePicture (g : CfgRegs) : Instr → Prop
  | .nop => False
  | .regWrite _ _ _ => False
  | .picInit _ => False
  | .picDone _ => False
  | .picFree _ => False
  | .setCtb _ rx ry _ _ _ => CtbOutside g rx ry
  | .setSlice _ _ _ _ _ _ _ _ => False
  | .setCu _ k _ _ _ _ x y => BlockOutside g 0 x.toNat y.toNat (2 ^ k.toNat) (2 ^ k.toNat)
  | .markTb _ k _ x y => BlockOutside g 0 x.toNat y.toNat (2 ^ k.toNat) (2 ^ k.toNat)
  | .markPb _ _ _ _ _ x y w h _ _ _ _ => BlockOutside g 0 x.toNat y.toNat w.toNat h.toNat
  | .setSao _ _ _ _ rx ry _ _ _ _ => CtbOutside g rx ry
  | .setScaling _ _ _ _ _ _ => False
  | .coefWrite _ _ _ => False
  | .coefClear => False
  | .putSample _ c x y _ => BlockOutside g c.toNat x.toNat y.toNat 1 1
  | .intraPred _ c k _ x y => BlockOutside g c.toNat x.toNat y.toNat (2 ^ k.toNat) (2 ^ k.toNat)
  | .residual _ c k _ _ x y => BlockOutside g c.toNat x.toNat y.toNat (2 ^ k.toNat) (2 ^ k.toNat)
  | .interPred _ _ _ _ x y w h _ _ _ _ => BlockOutside g 0 x.toNat y.toNat w.toNat h.toNat
  | .deblock _ _ rx ry => CtbOutside g rx ry
  | .sao _ rx ry => CtbOutside g rx ry
  | .setProgress _ _ rx ry => CtbOutside g rx ry
  | .waitProgress _ _ rx ry => CtbOutside g rx ry

/-- The checks a command makes before a range check of its own (R66) are passed, and that check fails: the command
faults with code 8. `False` for a command without such a check. The reference slots of `INTER_PRED` are `RefBad`. -/
def FieldOutOfRange (s : State) : Instr → Prop
  | .nop => False
  | .regWrite n reg _ => n.toNat < s.params.numSlots ∧ 6 < reg.toNat
  | .picInit _ => False
  | .picDone _ => False
  | .picFree _ => False
  | .setCtb n rx ry addr slice tile => InFlight s n ∧ ¬ CtbOutside (s.slot n).cfg rx ry ∧
      ((s.slot n).cfg.widthInCtbs * (s.slot n).cfg.heightInCtbs ≤ addr.toNat ∨
        (slice.toNat < s.params.maxSlices ∧ s.params.maxTiles ≤ tile.toNat))
  | .setSlice n idx _ _ _ _ beta tc => InFlight s n ∧ idx.toNat < s.params.maxSlices ∧
      (beta.toInt < -6 ∨ 6 < beta.toInt ∨ tc.toInt < -6 ∨ 6 < tc.toInt)
  | .setCu n k intra pcm _ q x y => InFlight s n ∧
      (k.toNat < 3 ∨ (s.slot n).cfg.log2Ctb < k.toNat ∨ x.toNat % 2 ^ k.toNat ≠ 0 ∨ y.toNat % 2 ^ k.toNat ≠ 0 ∨
        q.toInt < -(s.slot n).cfg.qpBdOffset 0 ∨ 51 < q.toInt ∨ (pcm = true ∧ intra = false))
  | .markTb n k _ x y => InFlight s n ∧ ¬ BlockAligned k.toNat x.toNat y.toNat
  | .markPb n _ _ ref0 ref1 x y w h _ _ _ _ => InFlight s n ∧ (¬ PbAligned x.toNat y.toNat w.toNat h.toNat ∨
      s.params.numSlots ≤ ref0.toNat ∨ s.params.numSlots ≤ ref1.toNat)
  | .setSao n c ty pos _ _ _ _ _ _ => PlaneReady s n c ∧ (ty = 3 ∨ (ty = 2 ∧ 3 < pos.toNat))
  | .setScaling n z m x y v => InFlight s n ∧
      (5 < m.toNat ∨ 4 * 2 ^ z.toNat ≤ x.toNat ∨ 4 * 2 ^ z.toNat ≤ y.toNat ∨ v = 0)
  | .coefWrite _ _ _ => False
  | .coefClear => False
  | .putSample n c x y v => PlaneReady s n c ∧ ¬ BlockOutside (s.slot n).cfg c.toNat x.toNat y.toNat 1 1 ∧
      2 ^ (s.slot n).cfg.bitDepth c.toNat ≤ v.toNat
  | .intraPred n c k mode x y => PlaneReady s n c ∧ (¬ BlockAligned k.toNat x.toNat y.toNat ∨ 34 < mode.toNat)
  | .residual n c k tskip qp x y => PlaneReady s n c ∧ (¬ BlockAligned k.toNat x.toNat y.toNat ∨
      (¬ BlockOutside (s.slot n).cfg c.toNat x.toNat y.toNat (2 ^ k.toNat) (2 ^ k.toNat) ∧
        (51 + (s.slot n).cfg.qpBdOffset c.toNat < (qp.toNat : Int) ∨ (tskip = true ∧ k ≠ 2))))
  | .interPred n c _ _ x y w h _ _ _ _ => PlaneReady s n c ∧ ¬ PbAligned x.toNat y.toNat w.toNat h.toNat
  | .deblock _ _ _ _ => False
  | .sao _ _ _ => False
  | .setProgress n v _ _ => InFlight s n ∧ 4 < v.toNat
  | .waitProgress n v _ _ => n.toNat < s.params.numSlots ∧ (s.slot n).alloc = true ∧ 4 < v.toNat

/-- Items 1 to 6 of R213 in the fields of R26. -/
def FieldsInRange (g : CfgRegs) : Prop :=
  (g.picWidthReg.toNat < 2 ^ 16 ∧ g.picHeightReg.toNat < 2 ^ 16 ∧ g.formatReg.toNat < 2 ^ 13 ∧
    g.flagsReg.toNat < 2 ^ 6 ∧ g.qpOffsetsReg.toNat < 2 ^ 10) ∧
  (g.picWidth % 8 = 0 ∧ 8 ≤ g.picWidth ∧ g.picHeight % 8 = 0 ∧ 8 ≤ g.picHeight) ∧
  (8 ≤ g.bitDepthY ∧ g.bitDepthY ≤ 12 ∧ (g.chromaFormat = 0 ∨ (8 ≤ g.bitDepthC ∧ g.bitDepthC ≤ 12))) ∧
  (4 ≤ g.log2Ctb ∧ g.log2Ctb ≤ 6) ∧
  (-12 ≤ g.cbQpOffset ∧ g.cbQpOffset ≤ 12 ∧ -12 ≤ g.crQpOffset ∧ g.crQpOffset ≤ 12) ∧
  (g.strideYReg = 0 ∨ (g.strideYReg.toNat % 16 = 0 ∧ g.planeW 0 * g.bps 0 ≤ g.strideYReg.toNat)) ∧
  (g.chromaFormat = 0 ∨ g.strideCReg = 0 ∨
    (g.strideCReg.toNat % 16 = 0 ∧ g.planeW 1 * g.bps 1 ≤ g.strideCReg.toNat))

/-- The picture, or the window of an existing plane, is too large (R213). -/
def TooLarge (p : Params) (g : CfgRegs) : Prop :=
  p.maxPicWidth < g.picWidth ∨ p.maxPicHeight < g.picHeight ∨
    ∃ c, g.planeExists c = true ∧ 2 ^ 32 < g.stride c * g.planeH c + p.pad

/-- The slot a command names (R64). -/
def namedSlot : Instr → Option (BitVec 5)
  | .nop => none
  | .regWrite n _ _ => some n
  | .picInit n => some n
  | .picDone n => some n
  | .picFree n => some n
  | .setCtb n _ _ _ _ _ => some n
  | .setSlice n _ _ _ _ _ _ _ => some n
  | .setCu n _ _ _ _ _ _ _ => some n
  | .markTb n _ _ _ _ => some n
  | .markPb n _ _ _ _ _ _ _ _ _ _ _ _ => some n
  | .setSao n _ _ _ _ _ _ _ _ _ => some n
  | .setScaling n _ _ _ _ _ => some n
  | .coefWrite _ _ _ => none
  | .coefClear => none
  | .putSample n _ _ _ _ => some n
  | .intraPred n _ _ _ _ _ => some n
  | .residual n _ _ _ _ _ _ => some n
  | .interPred n _ _ _ _ _ _ _ _ _ _ _ => some n
  | .deblock n _ _ _ => some n
  | .sao n _ _ => some n
  | .setProgress n _ _ _ => some n
  | .waitProgress n _ _ _ => some n

/-- The component a command names (R64). -/
def namedComponent : Instr → Option (BitVec 2)
  | .setSao _ c _ _ _ _ _ _ _ _ => some c
  | .putSample _ c _ _ _ => some c
  | .intraPred _ c _ _ _ _ => some c
  | .residual _ c _ _ _ _ _ => some c
  | .interPred _ c _ _ _ _ _ _ _ _ _ _ => some c
  | _ => none

/-- The command begins with `check InFlight` (R212, R231): every command with a slot but four. -/
def checksInFlight : Instr → Bool
  | .nop => false
  | .regWrite _ _ _ => false
  | .picInit _ => false
  | .picFree _ => false
  | .coefWrite _ _ _ => false
  | .coefClear => false
  | .waitProgress _ _ _ _ => false
  | _ => true

/-- The head of the engine's queue is a `WAIT_PROGRESS` whose checks pass and whose cell is below its value (R28,
R226). -/
def WaitsAtHead (s : State) (e : BitVec 5) : Prop :=
  ∃ n value rx ry, decode (s.engine e).queue = .ok (.waitProgress n value rx ry) ∧ n.toNat < s.params.numSlots ∧
    (s.slot n).alloc = true ∧ value.toNat ≤ 4 ∧ ¬ CtbOutside (s.slot n).cfg rx ry ∧
    ((s.slot n).progressAt rx.toNat ry.toNat).toNat < value.toNat

/-- The executing engine's registers after a fault of its command (R230). -/
structure Faulted (code : FaultCode) (s t : State) : Prop where
  errCode : t.me.errCode = code.code
  errCmd : t.me.errCmd = s.me.cmdCount
  faulted : t.me.faulted = true
  queue : t.me.queue = s.me.queue
  cmdCount : t.me.cmdCount = s.me.cmdCount
  irqEn : t.me.irqEn = s.me.irqEn
  others : ∀ e, e ≠ s.cur → t.engine e = s.engine e
  cur : t.cur = s.cur
  slots : KeepsSlots s t
  memory : KeepsMemory s t
  warnings : KeepsWarnings s t

/-! ## Deblocking in the words of the rules (R170 to R184)

A line of samples across an edge is a function of the distance: `f (-1 - i)` is `p_i` and `f i` is `q_i` (R177). -/

/-- A list of one block and a list of another are both unused, or name one picture with vectors less than 4 quarter
samples apart in both components (`far` of R174). -/
def ListsAgree (u : Bool) (r : BitVec 5) (v : Mv) (u' : Bool) (r' : BitVec 5) (v' : Mv) : Prop :=
  u = u' ∧ (u = true → r = r' ∧ absI (v.x.toInt - v'.x.toInt) < 4 ∧ absI (v.y.toInt - v'.y.toInt) < 4)

/-- The lists of two blocks agree in one of the two pairings; `MotionBs` is 0 then and 1 otherwise (R174). -/
def MotionAgrees (p q : MetaRec) : Prop :=
  (ListsAgree p.predFlagL0 p.refSlotL0 p.mvL0 q.predFlagL0 q.refSlotL0 q.mvL0 ∧
    ListsAgree p.predFlagL1 p.refSlotL1 p.mvL1 q.predFlagL1 q.refSlotL1 q.mvL1) ∨
  (ListsAgree p.predFlagL0 p.refSlotL0 p.mvL0 q.predFlagL1 q.refSlotL1 q.mvL1 ∧
    ListsAgree p.predFlagL1 p.refSlotL1 p.mvL1 q.predFlagL0 q.refSlotL0 q.mvL0)

/-- `b` is the boundary strength between blocks `p` and `q` (R173). -/
def StrengthIs (transformEdge : Bool) (p q : MetaRec) (b : Nat) : Prop :=
  if p.isIntra = true ∨ q.isIntra = true then b = 2
  else if transformEdge = true ∧ (p.nz = true ∨ q.nz = true) then b = 1
  else b ≤ 1 ∧ (b = 0 ↔ MotionAgrees p q)

/-- The luma segment at (x, y) is an edge and is filtered, between blocks `mP` and `mQ`, with Q's slice `sq` and
strength `b` (R170 to R173). -/
structure SegmentAt (sl : Slot) (dir : Bool) (x y : Nat) (mP mQ : MetaRec) (sq : SliceRec) (b : Nat) : Prop where
  inPicture : 0 < (if dir then y else x)
  blockP : mP = sl.metaAt (if dir then x else x - 1) (if dir then y - 1 else y)
  blockQ : mQ = sl.metaAt x y
  slice : sq = sl.sliceAt (sl.ctbOf x y).sliceIdx
  edge : if dir then mQ.tbEdgeH = true ∨ mQ.pbEdgeH = true else mQ.tbEdgeV = true ∨ mQ.pbEdgeV = true
  setP : (sl.ctbOf (if dir then x else x - 1) (if dir then y - 1 else y)).ctbSet = true
  setQ : (sl.ctbOf x y).ctbSet = true
  tiles : (sl.ctbOf (if dir then x else x - 1) (if dir then y - 1 else y)).tileId ≠ (sl.ctbOf x y).tileId →
    sl.cfg.lfAcrossTiles = true
  slices : (sl.ctbOf (if dir then x else x - 1) (if dir then y - 1 else y)).sliceIdx ≠ (sl.ctbOf x y).sliceIdx →
    sq.lfAcrossSlices = true
  enabled : sq.deblockDisabled = false
  strength : StrengthIs (if dir then mQ.tbEdgeH else mQ.tbEdgeV) mP mQ b

/-- `β′` of R175 on 0..51. -/
def ruleBetaPrime (q : Int) : Int := if q < 16 then 0 else if q < 29 then q - 10 else 2 * q - 38

/-- `tC′` of R176 on 0..53. -/
def ruleTcPrime (q : Int) : Int :=
  if q < 18 then 0 else if q < 27 then 1 else if q < 31 then 2 else if q < 35 then 3 else if q < 38 then 4
  else if q < 40 then 5 else if q < 42 then 6 else if q < 47 then q - 35 else if q < 49 then q - 34 else 2 * q - 82

/-- `ChromaQpTable` of R73. -/
def ruleChromaQp (q : Int) : Int :=
  if q < 30 then q else if q < 34 then q - 1 else if q < 43 then (q + 32) / 2 else q - 6

/-- The mean QpY of two blocks, rounded up (R178, R182). -/
def meanQp (p q : MetaRec) : Int := (q.qpY.toInt + p.qpY.toInt + 1) / 2

/-- `β` of a luma segment (R178). -/
def ruleBeta (bd : Nat) (p q : MetaRec) (sq : SliceRec) : Int :=
  ruleBetaPrime (clip3 0 51 (meanQp p q + 2 * sq.betaOffsetDiv2.toInt)) * 2 ^ (bd - 8)

/-- `tC` from a QP and a strength (R178, R182). -/
def ruleTc (bd : Nat) (qp : Int) (sq : SliceRec) (b : Nat) : Int :=
  ruleTcPrime (clip3 0 53 (qp + 2 * (b - 1) + 2 * sq.tcOffsetDiv2.toInt)) * 2 ^ (bd - 8)

/-- `QpC` of a chroma segment (R182). -/
def ruleChromaSegmentQp (g : CfgRegs) (c : Nat) (p q : MetaRec) : Int :=
  let qPi := meanQp p q + (if c = 1 then g.cbQpOffset else g.crQpOffset)
  if g.chromaFormat = 1 then ruleChromaQp qPi else min qPi 51

/-- The strong filter at distance `d` (R180). `m` is the line seen from the side of `d`: `m 0` is the sample nearest the
edge, `m (-1)` its neighbour across. -/
def ruleStrong (tc : Int) (f : Int → Int) (d : Int) : Int :=
  let m := fun e => if d < 0 then f (-1 - e) else f e
  let i := if d < 0 then -1 - d else d
  let v := if i = 0 then shr (m 2 + 2 * m 1 + 2 * m 0 + 2 * m (-1) + m (-2) + 4) 3
    else if i = 1 then shr (m 2 + m 1 + m 0 + m (-1) + 2) 2
    else shr (2 * m 3 + 3 * m 2 + m 1 + m 0 + m (-1) + 4) 3
  if i < 3 then clip3 (f d - 2 * tc) (f d + 2 * tc) v else f d

/-- The weak filter at distance `d` (R181). -/
def ruleWeak (bd : Nat) (tc : Int) (dEp dEq : Bool) (f : Int → Int) (d : Int) : Int :=
  let raw := shr (9 * (f 0 - f (-1)) - 3 * (f 1 - f (-2)) + 8) 4
  let delta := clip3 (-tc) tc raw
  let half := shr tc 1
  if 10 * tc ≤ absI raw then f d
  else if d = -1 then clip1 bd (f (-1) + delta)
  else if d = 0 then clip1 bd (f 0 - delta)
  else if d = -2 ∧ dEp = true then
    clip1 bd (f (-2) + clip3 (-half) half (shr (shr (f (-3) + f (-1) + 1) 1 - f (-2) + delta) 1))
  else if d = 1 ∧ dEq = true then
    clip1 bd (f 1 + clip3 (-half) half (shr (shr (f 2 + f 0 + 1) 1 - f 1 - delta) 1))
  else f d

/-- The sample at distance `d` of line `k` of a luma segment after its filter, `f` its four lines before (R179 to
R181). -/
def ruleLuma (bd b : Nat) (beta tc : Int) (f : Nat → Int → Int) (k : Nat) (d : Int) : Int :=
  let dp := fun k => absI (f k (-3) - 2 * f k (-2) + f k (-1))
  let dq := fun k => absI (f k 2 - 2 * f k 1 + f k 0)
  let flat := fun k => decide (2 * (dp k + dq k) < shr beta 2 ∧
    absI (f k (-4) - f k (-1)) + absI (f k 0 - f k 3) < shr beta 3 ∧ absI (f k (-1) - f k 0) < shr (5 * tc + 1) 1)
  let side := shr (beta + shr beta 1) 3
  if b = 0 ∨ beta ≤ dp 0 + dq 0 + dp 3 + dq 3 then f k d
  else if flat 0 && flat 3 then ruleStrong tc (f k) d
  else ruleWeak bd tc (decide (dp 0 + dp 3 < side)) (decide (dq 0 + dq 3 < side)) (f k) d

/-- The sample at distance `d` of a chroma line after its filter (R183). -/
def ruleChroma (bd : Nat) (tc : Int) (f : Int → Int) (d : Int) : Int :=
  let delta := clip3 (-tc) tc (shr (4 * (f 0 - f (-1)) + f (-2) - f 1 + 4) 3)
  if d = -1 then clip1 bd (f (-1) + delta) else if d = 0 then clip1 bd (f 0 - delta) else f d

/-- The filters leave the samples of a block alone (R184). -/
def Protected (g : CfgRegs) (m : MetaRec) : Prop := (g.pcmLoopFilterDisabled = true ∧ m.pcm = true) ∨ m.bypass = true

/-- The address of the Rec sample at distance `d` of line `k` of the segment at component position (x, y) (R177). -/
def edgeAddr (n : BitVec 5) (dir : Bool) (c x y k : Nat) (d : Int) : Nat :=
  if dir then sampleAddr n .recon c (x + k) (y + d).toNat else sampleAddr n .recon c (x + d).toNat (y + k)

/-- The segment at component position (x, y) of plane `c` stands on the grid of its direction, with its Q side in CTB
(rx, ry) and in the plane (R170, R182, R186). -/
def SegmentOfCtb (g : CfgRegs) (dir : Bool) (c x y : Nat) (rx ry : BitVec 16) : Prop :=
  x % (if dir then 4 else 8) = 0 ∧ y % (if dir then 8 else 4) = 0 ∧ x < g.planeW c ∧ y < g.planeH c ∧
    x * g.subW c / g.ctbSize = rx.toNat ∧ y * g.subH c / g.ctbSize = ry.toNat

/-- The samples at distances -r to r - 1 of the four lines of a segment are written, in the sample range, and are
`f`. -/
def LinesAre (s : State) (n : BitVec 5) (dir : Bool) (c x y : Nat) (r : Int) (f : Nat → Int → Int) : Prop :=
  ∀ k d, k < 4 → -r ≤ d → d < r → 0 ≤ f k d ∧ f k d < 2 ^ (s.slot n).cfg.bitDepth c ∧
    memSample? s.mem (edgeAddr n dir c x y k d) = some (BitVec.ofInt 16 (f k d))

/-! ## Runs -/

/-- An endless run of the machine. -/
def IsRun (run : Nat → State) : Prop := ∀ k, step (run k) = .next (run (k + 1))

/-- Weak fairness (R57): an engine that stays RUNNING gets a turn. -/
def WeaklyFair (run : Nat → State) : Prop :=
  ∀ e k, (∀ j, k ≤ j → (run j).engineState e = .running) → ∃ j, k ≤ j ∧ (run j).nextEvent = .engine e

/-! ## Ordered commands (R252 to R255)

A program must order each command after others; across engines it waits on the progress of these CTBs. A program that
does not gets a result that depends on the interleaving, never a fault. -/

/-- The CTBs of a list of positions that lie in the picture. -/
def ctbsInside (g : CfgRegs) (l : List (Int × Int)) : List (Nat × Nat) :=
  (l.filter fun p => decide (0 ≤ p.1 ∧ 0 ≤ p.2) && g.ctbInside p.1.toNat p.2.toNat).map fun p => (p.1.toNat, p.2.toNat)

/-- The CTBs an intra prediction in CTB (x, y) reads beside its own (R252 (a)). -/
def intraWaits (x y : Int) : List (Int × Int) := [(x - 1, y), (x - 1, y - 1), (x, y - 1), (x + 1, y - 1)]

/-- The CTBs predicted before the vertical pass of CTB (x, y) (R252 (b)). -/
def verticalPredictionWaits (x y : Int) : List (Int × Int) :=
  [(x - 1, y), (x, y), (x + 1, y), (x - 2, y + 1), (x - 1, y + 1), (x, y + 1), (x + 1, y + 1)]

/-- The CTBs predicted before the horizontal pass of CTB (x, y) (R252 (b)). -/
def horizontalPredictionWaits (x y : Int) : List (Int × Int) :=
  [(x, y - 1), (x + 1, y - 1), (x - 1, y), (x, y), (x + 1, y), (x - 1, y + 1), (x, y + 1), (x + 1, y + 1)]

/-- The CTBs whose vertical pass comes before the horizontal pass of CTB (x, y) (R254 (b)). -/
def horizontalPassWaits (x y : Int) : List (Int × Int) := [(x, y), (x + 1, y), (x, y - 1), (x + 1, y - 1)]

/-- The CTBs whose horizontal pass comes before the SAO of CTB (x, y) (R255). -/
def saoWaits (x y : Int) : List (Int × Int) :=
  [(x - 1, y), (x, y), (x + 1, y), (x - 1, y + 1), (x, y + 1), (x + 1, y + 1)]

/-- Every CTB of the list has reached `v`. -/
def Slot.reached (sl : Slot) (v : Progress) (l : List (Int × Int)) : Bool :=
  (ctbsInside sl.cfg l).all fun p => decide (v.toNat ≤ (sl.progressAt p.1 p.2).toNat)

/-- The CTBs of a reference picture that the prediction of a block of `len` luma samples at `pos` reads along one axis,
with vector component `mv` in a picture of `pic` samples (R164). -/
def referenceCtbs (g : CfgRegs) (pos len : Nat) (mv : BitVec 16) (pic : Nat) : List Nat :=
  let first := (clip3 0 (pic - 1) (pos + shr mv.toInt 2 - 3)).toNat / g.ctbSize
  let last := (clip3 0 (pic - 1) (pos + shr mv.toInt 2 + len + 4)).toNat / g.ctbSize
  (List.range (last + 1 - first)).map fun k => first + k

/-- Every CTB of the reference slot `r` that a list of the block reads has reached SAOComplete (R253). The CTBs are
those of slot `r`, whose CTB size may differ from that of the predicted slot (R158 (c)). -/
def referenceReady (s : State) (used : Bool) (r : BitVec 5) (mv : Mv) (x y w h : Nat) : Bool :=
  let g := (s.slot r).cfg
  !used || ((referenceCtbs g y h mv.y g.picHeight).all fun ry => (referenceCtbs g x w mv.x g.picWidth).all fun rx =>
    decide ((s.slot r).progressAt rx ry = .saoComplete))

/-- The waits of R252 to R255 for a command are met in this state. -/
def ordered (i : Instr) (s : State) : Bool :=
  match i with
  | .intraPred slot c _ _ x y =>
    let g := (s.slot slot).cfg
    (s.slot slot).reached .predictionDone
      (intraWaits (x.toNat * g.subW c.toNat / g.ctbSize) (y.toNat * g.subH c.toNat / g.ctbSize))
  | .interPred slot _ _ _ x y w h _ _ _ _ =>
    let md := (s.slot slot).metaAt x.toNat y.toNat
    referenceReady s md.predFlagL0 md.refSlotL0 md.mvL0 x.toNat y.toNat w.toNat h.toNat &&
      referenceReady s md.predFlagL1 md.refSlotL1 md.mvL1 x.toNat y.toNat w.toNat h.toNat
  | .deblock slot false rx ry =>
    (s.slot slot).reached .predictionDone (verticalPredictionWaits rx.toNat ry.toNat)
  | .deblock slot true rx ry =>
    (s.slot slot).reached .predictionDone (horizontalPredictionWaits rx.toNat ry.toNat) &&
      (s.slot slot).reached .deblockingVPass (horizontalPassWaits rx.toNat ry.toNat)
  | .sao slot rx ry => (s.slot slot).reached .deblockingHPass (saoWaits rx.toNat ry.toNat)
  | _ => true

end Sys2Proof.Machine
end

