-- ==== Sys2Proof/Certificates/Slice0/Obligations.lean ====
section
/-! DEFINITION. The statements for the provers. A statement marked "model's choice" in its docstring rests on a log
entry and not on a rule alone. -/

open Sys2Proof Sys2Proof.Machine

/-- When the next move is the turn of an engine that exists and is not FAULTED, and its queue decodes to command i,
the step is exec of i at that state with the move taken off the agenda and cur set to the engine. Follows 20_memory.md
R55, 60_exceptions.md R228. -/
def Obligations.StepRunsCommand : Prop :=
  ∀ (s : State) (e : BitVec 5) (i : Instr), s.nextEvent = .engine e → e.toNat < s.params.numEngines →
    (s.engine e).faulted = false → decode (s.engine e).queue = .ok i →
    step s = exec i { s.advanceAgenda with cur := e }

/-- The turn of a FAULTED engine, or of one whose queue holds only the first words of a command, changes nothing but
whose turn it was. The turn of an engine whose head does not decode faults with ILLEGAL_COMMAND, and a RESIDUAL word
that does not decode also clears the coefficient buffer. The rules do not say that last clause: it is the model's
choice (log 13). Follows 30_encoding.md R63, 60_exceptions.md R229, 60_exceptions.md R230. -/
def Obligations.TurnWithoutCommand : Prop :=
  ∀ (s : State) (e : BitVec 5), s.nextEvent = .engine e → e.toNat < s.params.numEngines →
    ((s.engine e).faulted = true → step s = .next { s.advanceAgenda with cur := e }) ∧
    ((s.engine e).faulted = false → decode (s.engine e).queue = .error .incomplete →
      step s = .next { s.advanceAgenda with cur := e }) ∧
    (∀ d, (s.engine e).faulted = false → decode (s.engine e).queue = .error d → d ≠ .incomplete →
      ∃ t, step s = .next t ∧ Faulted .illegalCommand { s.advanceAgenda with cur := e } t ∧
        (∀ w0 rest, (s.engine e).queue = w0 :: rest →
          (opField w0 = 0x21#8 → ∀ x y, t.me.coefAt x y = 0) ∧
          (opField w0 ≠ 0x21#8 → t.me.coef = (s.engine e).coef)))

/-- Six words written out in the spec's rules decode to the commands they stand for. Follows 30_encoding.md R65,
30_encoding.md R70, 45_control.md R221, 43_deblocking.md R169, 44_sao.md R193. -/
def Obligations.DecodeWords : Prop :=
  decode [0x00D30020#32, 0x00000008#32] = .ok (.intraPred 0 0 3 26 8 0) ∧
  decode [0x078B0007#32, 0x00000008#32] = .ok (.setCu 0 3 true false false 30 8 0) ∧
  decode [0x00050009#32, 0x00000000#32, 0x00080008#32, 0x0005FFFD#32, 0x00000000#32] =
    .ok (.markPb 0 true false 1 0 0 0 8 8 (-3) 5 0 0) ∧
  decode [0x0006000A#32, 0x00000000#32, 0xFDFF0103#32] = .ok (.setSao 0 0 2 1 0 0 3 1 (-1) (-3)) ∧
  decode [0x1CE1000B#32, 0x00000073#32] = .ok (.setScaling 0 1 0 7 7 115) ∧
  decode [0x00040341#32, 0x00010000#32] = .ok (.waitProgress 3 4 0 1)

/-- For every well-formed command, with every operand at every value its field admits, the decoder reads from its
encoding, whatever words follow in the queue, that command. Follows 30_encoding.md R62, 30_encoding.md R64,
30_encoding.md R65. -/
def Obligations.DecodeEncode : Prop :=
  ∀ (i : Instr) (rest : List Word), i.wellFormed = true → decode (encode i ++ rest) = .ok i

/-- Whatever the decoder accepts is well formed, and the words it took are exactly the encoding of the command: no
reserved or unused bit is ignored. Follows 30_encoding.md R63, 30_encoding.md R67. -/
def Obligations.EncodeDecode : Prop :=
  ∀ (q : List Word) (i : Instr), decode q = .ok i → i.wellFormed = true ∧ q.take i.length = encode i

/-- Every well-formed command that names a slot at or above NUM_SLOTS faults with CODED_PARAMETER_OUT_OF_RANGE,
whatever its other fields and whatever the state. Follows 30_encoding.md R63, 60_exceptions.md R232. -/
def Obligations.SlotOutOfRangeFaults : Prop :=
  ∀ (i : Instr) (s : State) (n : BitVec 5), i.wellFormed = true → namedSlot i = some n →
    s.params.numSlots ≤ n.toNat → ∃ t, exec i s = .next t ∧ Faulted .codedParameterOutOfRange s t

/-- A well-formed command that checks InFlight and names a slot that is not in flight faults with SLOT_NOT_ALLOCATED;
one that names component 1 or 2 of a monochrome slot in flight faults with CODED_PARAMETER_OUT_OF_RANGE; both whatever
the other fields are. Follows 60_exceptions.md R231. -/
def Obligations.CommonChecks : Prop :=
  ∀ (i : Instr) (s : State) (n : BitVec 5), i.wellFormed = true → namedSlot i = some n →
    n.toNat < s.params.numSlots → checksInFlight i = true →
    (¬ ((s.slot n).alloc = true ∧ (s.slot n).done = false) →
      ∃ t, exec i s = .next t ∧ Faulted .slotNotAllocated s t) ∧
    (∀ c, (s.slot n).alloc = true → (s.slot n).done = false → namedComponent i = some c → c ≠ 0 →
      (s.slot n).cfg.chromaFormat = 0 → ∃ t, exec i s = .next t ∧ Faulted .codedParameterOutOfRange s t)

/-- In every state every command answers a next state in which it has completed (its words removed, one more command
counted, the error registers as before), or held (nothing changed, only WAIT_PROGRESS), or faulted (nothing changed
but the error registers and the FAULTED state, and for RESIDUAL the coefficient buffer cleared). That a RESIDUAL of a
slot at or above NUM_SLOTS or of component 3 clears the buffer is the model's choice (log 13, log 16). Follows
60_exceptions.md R228, 60_exceptions.md R230, 60_exceptions.md R244, 10_state.md R22. -/
def Obligations.CommandOutcomes : Prop :=
  ∀ (i : Instr) (s : State), ∃ t, exec i s = .next t ∧
    (Completed i.length s t ∨
     (t = s ∧ ∃ slot value rx ry, i = .waitProgress slot value rx ry) ∨
     (∃ code, t = raise code s) ∨
     (∃ code slot c log2N tskip qp x y, i = .residual slot c log2N tskip qp x y ∧ t = raise code s.clearCoef))

/-- After any command, the queue of every engine is what it was less some words at its head, and only its own engine's
queue loses words; a window write changes no engine. Follows 20_memory.md R58. -/
def Obligations.QueuesNeverRewritten : Prop :=
  (∀ (i : Instr) (s t : State), exec i s = .next t →
    (∀ e, e ≠ s.cur → (t.engine e).queue = (s.engine e).queue) ∧ ∃ k, t.me.queue = s.me.queue.drop k) ∧
  (∀ (a : BitVec 40) (n : Nat) (v : Word) (s t : State), hostStep (.memWrite a n v) s = .next t →
    ∀ e, t.engine e = s.engine e)

/-- A REG_WRITE of a register to an allocated slot faults with CONFIG_LOCKED, and no command changes the configuration
of a slot that is allocated. Follows 10_state.md R27. -/
def Obligations.ConfigLocked : Prop :=
  (∀ (s : State) (n : BitVec 5) (reg : BitVec 8) (value : Word), n.toNat < s.params.numSlots → reg.toNat ≤ 6 →
    (s.slot n).alloc = true → ∃ t, exec (.regWrite n reg value) s = .next t ∧ Faulted .configLocked s t) ∧
  (∀ (i : Instr) (s t : State) (n : BitVec 5), (s.slot n).alloc = true → exec i s = .next t →
    (t.slot n).cfg = (s.slot n).cfg)

/-- A command leaves every progress cell alone, except that SET_PROGRESS of that cell may raise it and PIC_INIT of the
slot sets it to None; it is None after reset. Follows 10_state.md R38. -/
def Obligations.ProgressMonotone : Prop :=
  (∀ (i : Instr) (s t : State) (n : BitVec 5) (rx ry : Nat), rx < 65536 → ry < 65536 → exec i s = .next t →
    (t.slot n).progressAt rx ry = (s.slot n).progressAt rx ry ∨
    (i = .picInit n ∧ (t.slot n).progressAt rx ry = .none) ∨
    (∃ v bx bz, i = .setProgress n v bx bz ∧ bx.toNat = rx ∧ bz.toNat = ry ∧
      ((s.slot n).progressAt rx ry).toNat ≤ ((t.slot n).progressAt rx ry).toNat)) ∧
  (∀ (s t : State) (n : BitVec 5), exec (.picInit n) s = .next t → t.me.cmdCount = s.me.cmdCount + 1 →
    ∀ rx ry, (t.slot n).progressAt rx ry = .none) ∧
  (∀ (p : Params) (n : BitVec 5) (rx ry : Nat), ((State.resetWith p).slot n).progressAt rx ry = .none) ∧
  (∀ (op : HostOp) (s t : State) (n : BitVec 5) (rx ry : Nat), hostStep op s = .next t →
    (t.slot n).progressAt rx ry = (s.slot n).progressAt rx ry ∨
    (op = .reset ∧ (t.slot n).progressAt rx ry = .none))

/-- A command leaves every other slot's registers and tables, and every byte of its sample planes, as they were.
Follows 10_state.md R20, 20_memory.md R46, 60_exceptions.md R236. -/
def Obligations.SlotIsolation : Prop :=
  ∀ (i : Instr) (s t : State) (n : BitVec 5), exec i s = .next t → namedSlot i ≠ some n →
    t.slot n = s.slot n ∧ ∀ a, a / slotSpan = n.toNat → memByte? t.mem a = memByte? s.mem a

/-- No command but SAO (and PIC_INIT, which forgets them) changes a sample of an Out plane, and SAO changes no sample
of a Rec plane. Follows 10_state.md R30, 44_sao.md R190. -/
def Obligations.OnlySaoWritesOut : Prop :=
  ∀ (i : Instr) (s t : State) (n : BitVec 5) (c x y : Nat), c < 4 → x < 65536 → y < 65536 → exec i s = .next t →
    ((∀ m, i ≠ .picInit m) → (∀ m rx ry, i ≠ .sao m rx ry) →
      memSample? t.mem (sampleAddr n .out c x y) = memSample? s.mem (sampleAddr n .out c x y)) ∧
    (∀ m rx ry, i = .sao m rx ry →
      memSample? t.mem (sampleAddr n .recon c x y) = memSample? s.mem (sampleAddr n .recon c x y))

/-- A command leaves a slot's integrity alone unless it is PIC_INIT (NotDecoded), PIC_DONE of a NotDecoded slot
(Decoded), or INTER_PRED of the slot, which sets DecodingErrors as it queues the warning 1011 or 1012, or
DerivedFromErrors when a reference in use is DecodingErrors or DerivedFromErrors and the slot was not DecodingErrors.
A host operation leaves it alone unless it is reset (NotDecoded). Follows 10_state.md R25, 42_inter.md R160,
60_exceptions.md R233, 70_reset_and_hazards.md R250. -/
def Obligations.IntegrityTransitions : Prop :=
  (∀ (i : Instr) (s t : State) (n : BitVec 5), exec i s = .next t →
    (t.slot n).integrity = (s.slot n).integrity ∨
    (i = .picInit n ∧ (t.slot n).integrity = .notDecoded) ∨
    (i = .picDone n ∧ (s.slot n).integrity = .notDecoded ∧ (t.slot n).integrity = .decoded) ∨
    (∃ c expl denom x y w h wt0 of0 wt1 of1, ∃ md : MetaRec, i = .interPred n c expl denom x y w h wt0 of0 wt1 of1 ∧
      md = (s.slot n).metaAt x.toNat y.toNat ∧
      (((t.slot n).integrity = .decodingErrors ∧ ∃ code : BitVec 16, (code = 1011 ∨ code = 1012) ∧
          t.warn = (if s.params.warnDepth ≤ s.warn.length then s.warn.tail else s.warn) ++ [code]) ∨
       ((t.slot n).integrity = .derivedFromErrors ∧ (s.slot n).integrity ≠ .decodingErrors ∧
          ((md.predFlagL0 = true ∧ (s.slot md.refSlotL0).integrity ∈ [.decodingErrors, .derivedFromErrors]) ∨
           (md.predFlagL1 = true ∧ (s.slot md.refSlotL1).integrity ∈ [.decodingErrors, .derivedFromErrors])))))) ∧
  (∀ (op : HostOp) (s t : State) (n : BitVec 5), hostStep op s = .next t →
    (t.slot n).integrity = (s.slot n).integrity ∨ (op = .reset ∧ (t.slot n).integrity = .notDecoded))

/-- While a slot is allocated and done, every command but PIC_FREE of it leaves its registers, its tables and every
byte of its planes as they are. Follows 45_control.md R212, 45_control.md R217. -/
def Obligations.DecodedSlotFrozen : Prop :=
  ∀ (i : Instr) (s t : State) (n : BitVec 5), (s.slot n).alloc = true → (s.slot n).done = true →
    exec i s = .next t → i ≠ .picFree n →
    t.slot n = s.slot n ∧ ∀ a, a / slotSpan = n.toNat → memByte? t.mem a = memByte? s.mem a

/-- If the state is legal (the memory and every table in canonical form, samples whole, every record one a command can
write, the life cycle of the slots, the error registers and the warning queue as the rules say) and the step answers a
next state, that state is legal. Follows 10_state.md R24, 10_state.md R25, 10_state.md R28, 10_state.md R33,
10_state.md R36, 10_state.md R39, 60_exceptions.md R230, 60_exceptions.md R233. -/
def Obligations.StepKeepsLegal : Prop :=
  ∀ (s t : State), s.Legal → step s = .next t → t.Legal

/-- The machine right after reset, with any parameters in their ranges, is a legal state; so is State.reset. Follows
70_reset_and_hazards.md R247, 10_state.md R43. -/
def Obligations.ResetLegal : Prop :=
  (∀ p : Params, p.legal = true → (State.resetWith p).Legal) ∧ State.reset.Legal

/-- Whatever the state, a reset whose turn comes leaves every engine with an empty queue, no counted command, IDLE, no
error, the interrupt masked and no coefficient; no warning; every slot free, NotDecoded, with registers 0, tables at
their reset values and no sample written; and the interrupt line low. Follows 70_reset_and_hazards.md R247,
70_reset_and_hazards.md R250. -/
def Obligations.HostResetClears : Prop :=
  ∀ (s : State), s.nextEvent = .host .reset → ∃ t, step s = .next t ∧ t.reply = .done ∧
    (∀ e, (t.engine e).queue = [] ∧ (t.engine e).cmdCount = 0 ∧ t.engineState e = .idle ∧
      (t.engine e).errCode = 0 ∧ (t.engine e).errCmd = 0 ∧ (t.engine e).irqEn = false ∧
      ∀ x y, (t.engine e).coefAt x y = 0) ∧
    t.warn = [] ∧ t.warnOverflow = false ∧ t.irq = false ∧
    (∀ n, (t.slot n).alloc = false ∧ (t.slot n).done = false ∧ (t.slot n).integrity = .notDecoded ∧
      (∀ r, (t.slot n).cfg.read r = 0) ∧ (∀ x y, (t.slot n).metaAt x y = MetaRec.reset) ∧
      (∀ x y, (t.slot n).ctbAt x y = CtbRec.reset) ∧ (∀ i, (t.slot n).sliceAt i = SliceRec.reset) ∧
      (∀ c x y, (t.slot n).saoAt c x y = SaoRec.reset) ∧ (∀ x y, (t.slot n).progressAt x y = .none) ∧
      (∀ z m x y, (t.slot n).scalingAt z m x y = 16)) ∧
    (∀ n set c x y, t.sampleWritten n set c x y = false)

/-- Started in a legal state, a command leaves each sample of each plane either as it was, or unwritten, or at a value
below 2 to the bit depth of the plane. Follows 10_state.md R31, 41_intra.md R111, 43_deblocking.md R180. -/
def Obligations.SamplesInRange : Prop :=
  ∀ (i : Instr) (s t : State) (n : BitVec 5) (set : PlaneSet) (c x y : Nat), s.Legal → exec i s = .next t →
    c < 3 → x < 65536 → y < 65536 →
    memSample? t.mem (sampleAddr n set c x y) = memSample? s.mem (sampleAddr n set c x y) ∨
    memSample? t.mem (sampleAddr n set c x y) = none ∨
    ∃ v, memSample? t.mem (sampleAddr n set c x y) = some v ∧ v.toNat < 2 ^ (s.slot n).cfg.bitDepth c

/-- NOP completes in every state: its word leaves the queue, the command count advances, and every slot, sample,
warning and coefficient is as before. Follows 45_control.md R214, 10_state.md R22. -/
def Obligations.NopResult : Prop :=
  ∀ (s : State), ∃ t, exec .nop s = .next t ∧ Completed 1 s t ∧ KeepsCoef s t ∧ KeepsSlots s t ∧ KeepsMemory s t ∧
    KeepsWarnings s t

/-- On a slot that is not allocated, REG_WRITE of a register 0 to 6 stores all 32 bits, whatever they are, and leaves
the other registers, the rest of the slot and everything else; a register number above 6 faults with code 8. Follows
45_control.md R215, 10_state.md R26. -/
def Obligations.RegWriteResult : Prop :=
  ∀ (s : State) (n : BitVec 5) (reg : BitVec 8) (value : Word), n.toNat < s.params.numSlots →
    (reg.toNat ≤ 6 → (s.slot n).alloc = false →
      ∃ t, exec (.regWrite n reg value) s = .next t ∧ ChangesSlot 2 n s t ∧
        t.slot n = { s.slot n with cfg := (t.slot n).cfg } ∧ (t.slot n).cfg.read reg = value ∧
        ∀ r, r ≠ reg → (t.slot n).cfg.read r = (s.slot n).cfg.read r) ∧
    (6 < reg.toNat → ∃ t, exec (.regWrite n reg value) s = .next t ∧ Faulted .codedParameterOutOfRange s t)

/-- On a slot that is not allocated and whose configuration is valid, PIC_INIT allocates it, not done and NotDecoded,
with its configuration as before, every table at its reset value and every sample of its planes unwritten; every other
slot and its samples are as before. Follows 45_control.md R216, 10_state.md R24, 10_state.md R32. -/
def Obligations.PicInitResult : Prop :=
  ∀ (s : State) (n : BitVec 5), n.toNat < s.params.numSlots → (s.slot n).alloc = false →
    validCfg s.params (s.slot n).cfg = none →
    ∃ t, exec (.picInit n) s = .next t ∧ Completed 1 s t ∧ KeepsCoef s t ∧ KeepsOtherSlots n s t ∧ KeepsWarnings s t ∧
      (∀ a, memByte? t.mem a = if a / slotSpan = n.toNat then none else memByte? s.mem a) ∧
      (t.slot n).alloc = true ∧ (t.slot n).done = false ∧ (t.slot n).integrity = .notDecoded ∧
      (t.slot n).cfg = (s.slot n).cfg ∧ (∀ x y, (t.slot n).metaAt x y = MetaRec.reset) ∧
      (∀ x y, (t.slot n).ctbAt x y = CtbRec.reset) ∧ (∀ i, (t.slot n).sliceAt i = SliceRec.reset) ∧
      (∀ c x y, (t.slot n).saoAt c x y = SaoRec.reset) ∧ (∀ x y, (t.slot n).progressAt x y = .none) ∧
      (∀ z m x y, (t.slot n).scalingAt z m x y = 16)

/-- On a slot in flight, PIC_DONE sets Done, turns NotDecoded into Decoded and keeps any other integrity, and changes
nothing else. Follows 45_control.md R217, 10_state.md R25. -/
def Obligations.PicDoneResult : Prop :=
  ∀ (s : State) (n : BitVec 5), InFlight s n → ∃ t, exec (.picDone n) s = .next t ∧ ChangesSlot 1 n s t ∧
    (t.slot n).done = true ∧
    ((s.slot n).integrity = .notDecoded → (t.slot n).integrity = .decoded) ∧
    ((s.slot n).integrity ≠ .notDecoded → (t.slot n).integrity = (s.slot n).integrity) ∧
    t.slot n = { s.slot n with done := true, integrity := (t.slot n).integrity }

/-- On an allocated slot PIC_FREE clears Alloc and keeps Done, the integrity, the tables, the configuration and the
planes; on a slot that is not allocated it faults with SLOT_NOT_ALLOCATED. Follows 45_control.md R218. -/
def Obligations.PicFreeResult : Prop :=
  ∀ (s : State) (n : BitVec 5), n.toNat < s.params.numSlots →
    ((s.slot n).alloc = true → ∃ t, exec (.picFree n) s = .next t ∧ ChangesSlot 1 n s t ∧
      t.slot n = { s.slot n with alloc := false }) ∧
    ((s.slot n).alloc = false → ∃ t, exec (.picFree n) s = .next t ∧ Faulted .slotNotAllocated s t)

/-- With a slot in flight, a CTB inside the picture and its three numbers in range, SET_CTB stores the record with
ctbSet 1, and leaves every other CTB record, the rest of the slot and everything else. Follows 45_control.md R219,
10_state.md R35. -/
def Obligations.SetCtbResult : Prop :=
  ∀ (s : State) (n : BitVec 5) (rx ry : BitVec 16) (addr : BitVec 32) (slice tile : BitVec 16), InFlight s n →
    rx.toNat < (s.slot n).cfg.widthInCtbs → ry.toNat < (s.slot n).cfg.heightInCtbs →
    addr.toNat < (s.slot n).cfg.widthInCtbs * (s.slot n).cfg.heightInCtbs → slice.toNat < s.params.maxSlices →
    tile.toNat < s.params.maxTiles →
    ∃ t, exec (.setCtb n rx ry addr slice tile) s = .next t ∧ ChangesSlot 4 n s t ∧
      t.slot n = { s.slot n with ctbs := (t.slot n).ctbs } ∧
      (t.slot n).ctbAt rx.toNat ry.toNat = ⟨addr, slice, tile, true⟩ ∧
      ∀ x y, x < 65536 → y < 65536 → ¬ (x = rx.toNat ∧ y = ry.toNat) → (t.slot n).ctbAt x y = (s.slot n).ctbAt x y

/-- With a slot in flight, a slice index below MAX_SLICES and both offsets in -6..6, SET_SLICE stores the record and
leaves every other record and everything else. Follows 45_control.md R220, 10_state.md R36. -/
def Obligations.SetSliceResult : Prop :=
  ∀ (s : State) (n : BitVec 5) (idx : BitVec 16) (dbk lf saoL saoC : Bool) (beta tc : BitVec 4), InFlight s n →
    idx.toNat < s.params.maxSlices → -6 ≤ beta.toInt → beta.toInt ≤ 6 → -6 ≤ tc.toInt → tc.toInt ≤ 6 →
    ∃ t, exec (.setSlice n idx dbk lf saoL saoC beta tc) s = .next t ∧ ChangesSlot 2 n s t ∧
      t.slot n = { s.slot n with slices := (t.slot n).slices } ∧
      (t.slot n).sliceAt idx = ⟨dbk, lf, saoL, saoC, beta, tc⟩ ∧
      ∀ j, j ≠ idx → (t.slot n).sliceAt j = (s.slot n).sliceAt j

/-- With a slot in flight and a coding block of legal size, place and QpY, SET_CU writes isIntra, pcm, bypass, qpY and
cuSet of every 4 by 4 block inside the coding block and keeps their edge and motion fields; every other block and
everything else is as before. Follows 45_control.md R221, 10_state.md R33. -/
def Obligations.SetCuResult : Prop :=
  ∀ (s : State) (n : BitVec 5) (k : BitVec 3) (intra pcm bypass : Bool) (q : BitVec 7) (x y : BitVec 16), InFlight s n →
    3 ≤ k.toNat → k.toNat ≤ (s.slot n).cfg.log2Ctb → x.toNat % 2 ^ k.toNat = 0 → y.toNat % 2 ^ k.toNat = 0 →
    -(s.slot n).cfg.qpBdOffset 0 ≤ q.toInt → q.toInt ≤ 51 → (pcm = true → intra = true) →
    x.toNat + 2 ^ k.toNat ≤ (s.slot n).cfg.picWidth → y.toNat + 2 ^ k.toNat ≤ (s.slot n).cfg.picHeight →
    ∃ t, exec (.setCu n k intra pcm bypass q x y) s = .next t ∧ ChangesSlot 2 n s t ∧
      t.slot n = { s.slot n with blocks := (t.slot n).blocks } ∧
      ∀ bx bz, bx < 65536 → bz < 65536 →
        (t.slot n).metaAt bx bz =
          if x.toNat ≤ bx ∧ bx < x.toNat + 2 ^ k.toNat ∧ y.toNat ≤ bz ∧ bz < y.toNat + 2 ^ k.toNat then
            { (s.slot n).metaAt bx bz with isIntra := intra, pcm := pcm, bypass := bypass, qpY := q, cuSet := true }
          else (s.slot n).metaAt bx bz

/-- With a slot in flight and a transform block of legal size and place, MARK_TB sets nz of every block inside it, the
vertical edge flag of its left column of blocks and the horizontal edge flag of its top row; it clears no edge flag
and changes nothing else. Follows 43_deblocking.md R168, 10_state.md R33. -/
def Obligations.MarkTbResult : Prop :=
  ∀ (s : State) (n : BitVec 5) (k : BitVec 3) (nz : Bool) (x y : BitVec 16), InFlight s n →
    2 ≤ k.toNat → k.toNat ≤ 5 → x.toNat % 2 ^ k.toNat = 0 → y.toNat % 2 ^ k.toNat = 0 →
    x.toNat + 2 ^ k.toNat ≤ (s.slot n).cfg.picWidth → y.toNat + 2 ^ k.toNat ≤ (s.slot n).cfg.picHeight →
    ∃ t, exec (.markTb n k nz x y) s = .next t ∧ ChangesSlot 2 n s t ∧
      t.slot n = { s.slot n with blocks := (t.slot n).blocks } ∧
      ∀ bx bz, bx < 65536 → bz < 65536 →
        (t.slot n).metaAt bx bz =
          if x.toNat ≤ bx ∧ bx < x.toNat + 2 ^ k.toNat ∧ y.toNat ≤ bz ∧ bz < y.toNat + 2 ^ k.toNat then
            { (s.slot n).metaAt bx bz with
              nz := nz
              tbEdgeV := ((s.slot n).metaAt bx bz).tbEdgeV || decide (bx < x.toNat + 4)
              tbEdgeH := ((s.slot n).metaAt bx bz).tbEdgeH || decide (bz < y.toNat + 4) }
          else (s.slot n).metaAt bx bz

/-- With a slot in flight, a prediction block of legal size and place and both reference slots below NUM_SLOTS,
MARK_PB writes the motion of every block inside it, an unused list as slot 0 and vector (0, 0), and sets the vertical
edge flag of its left column and the horizontal edge flag of its top row; nothing else changes. Follows
43_deblocking.md R169, 10_state.md R33. -/
def Obligations.MarkPbResult : Prop :=
  ∀ (s : State) (n : BitVec 5) (pf0 pf1 : Bool) (ref0 ref1 : BitVec 5) (x y w h mv0x mv0y mv1x mv1y : BitVec 16),
    InFlight s n → PbInPicture (s.slot n).cfg x.toNat y.toNat w.toNat h.toNat →
    ref0.toNat < s.params.numSlots → ref1.toNat < s.params.numSlots →
    ∃ t, exec (.markPb n pf0 pf1 ref0 ref1 x y w h mv0x mv0y mv1x mv1y) s = .next t ∧ ChangesSlot 5 n s t ∧
      t.slot n = { s.slot n with blocks := (t.slot n).blocks } ∧
      ∀ bx bz, bx < 65536 → bz < 65536 →
        (t.slot n).metaAt bx bz =
          if x.toNat ≤ bx ∧ bx < x.toNat + w.toNat ∧ y.toNat ≤ bz ∧ bz < y.toNat + h.toNat then
            { (s.slot n).metaAt bx bz with
              predFlagL0 := pf0
              predFlagL1 := pf1
              refSlotL0 := if pf0 then ref0 else 0
              refSlotL1 := if pf1 then ref1 else 0
              mvL0 := if pf0 then ⟨mv0x, mv0y⟩ else ⟨0, 0⟩
              mvL1 := if pf1 then ⟨mv1x, mv1y⟩ else ⟨0, 0⟩
              pbEdgeV := ((s.slot n).metaAt bx bz).pbEdgeV || decide (bx < x.toNat + 4)
              pbEdgeH := ((s.slot n).metaAt bx bz).pbEdgeH || decide (bz < y.toNat + 4) }
          else (s.slot n).metaAt bx bz

/-- With a slot in flight that has the plane, a type 0 to 2, an edge class below 4 and a CTB inside the picture,
SET_SAO stores the record (type 0 clears every field, type 1 has POS as its band position, type 2 as its class) and
leaves every other record and everything else. Follows 44_sao.md R193, 10_state.md R37. -/
def Obligations.SetSaoResult : Prop :=
  ∀ (s : State) (n : BitVec 5) (c ty : BitVec 2) (pos : BitVec 5) (rx ry : BitVec 16) (o1 o2 o3 o4 : BitVec 8),
    PlaneReady s n c → ty ≠ 3 → (ty = 2 → pos.toNat ≤ 3) → rx.toNat < (s.slot n).cfg.widthInCtbs →
    ry.toNat < (s.slot n).cfg.heightInCtbs →
    ∃ t, exec (.setSao n c ty pos rx ry o1 o2 o3 o4) s = .next t ∧ ChangesSlot 3 n s t ∧
      t.slot n = { s.slot n with saos := (t.slot n).saos } ∧
      (ty = 0 → (t.slot n).saoAt c.toNat rx.toNat ry.toNat = ⟨.notApplied, 0, 0, 0, 0, 0, 0⟩) ∧
      (ty = 1 → (t.slot n).saoAt c.toNat rx.toNat ry.toNat = ⟨.band, pos, 0, o1, o2, o3, o4⟩) ∧
      (ty = 2 → (t.slot n).saoAt c.toNat rx.toNat ry.toNat = ⟨.edge, 0, BitVec.ofNat 2 pos.toNat, o1, o2, o3, o4⟩) ∧
      ∀ d x y, x < 65536 → y < 65536 → ¬ (d = c.toNat ∧ x = rx.toNat ∧ y = ry.toNat) →
        (t.slot n).saoAt d x y = (s.slot n).saoAt d x y

/-- With a slot in flight, a matrix below 6, a position inside the matrix of its size and a value that is not 0,
SET_SCALING stores the factor and leaves every other factor and everything else; a value of 0 faults with code 8.
Follows 40_transform.md R85, 10_state.md R39. -/
def Obligations.SetScalingResult : Prop :=
  ∀ (s : State) (n : BitVec 5) (z : BitVec 2) (m : BitVec 3) (x y : BitVec 5) (v : BitVec 8), InFlight s n →
    (m.toNat < 6 → x.toNat < 4 * 2 ^ z.toNat → y.toNat < 4 * 2 ^ z.toNat → v ≠ 0 →
      ∃ t, exec (.setScaling n z m x y v) s = .next t ∧ ChangesSlot 2 n s t ∧
        t.slot n = { s.slot n with scaling := (t.slot n).scaling } ∧
        (t.slot n).scalingAt z.toNat m.toNat x.toNat y.toNat = v ∧
        ∀ z' m' x' y', m' < 8 → x' < 32 → y' < 32 →
          ¬ (z' = z.toNat ∧ m' = m.toNat ∧ x' = x.toNat ∧ y' = y.toNat) →
          (t.slot n).scalingAt z' m' x' y' = (s.slot n).scalingAt z' m' x' y') ∧
    (v = 0 → ∃ t, exec (.setScaling n z m x y v) s = .next t ∧ Faulted .codedParameterOutOfRange s t)

/-- In every state COEF_WRITE stores the signed value at its position of the executing engine's coefficient buffer,
keeps every other level, and changes no slot, sample or warning. Follows 40_transform.md R81, 10_state.md R40. -/
def Obligations.CoefWriteResult : Prop :=
  ∀ (s : State) (cx cy : BitVec 5) (v : BitVec 16), ∃ t, exec (.coefWrite cx cy v) s = .next t ∧ Completed 2 s t ∧
    KeepsSlots s t ∧ KeepsMemory s t ∧ KeepsWarnings s t ∧ t.me.coefAt cx.toNat cy.toNat = v.toInt ∧
    ∀ x y, x < 32 → y < 32 → ¬ (x = cx.toNat ∧ y = cy.toNat) → t.me.coefAt x y = s.me.coefAt x y

/-- In every state COEF_CLEAR leaves every level of the executing engine's coefficient buffer 0 and changes no slot,
sample or warning. Follows 40_transform.md R82, 10_state.md R40. -/
def Obligations.CoefClearResult : Prop :=
  ∀ (s : State), ∃ t, exec .coefClear s = .next t ∧ Completed 1 s t ∧ KeepsSlots s t ∧ KeepsMemory s t ∧
    KeepsWarnings s t ∧ ∀ x y, t.me.coefAt x y = 0

/-- With a slot in flight that has the plane, a position inside it and a value of its bit depth, PUT_SAMPLE writes the
value at that position of Rec and leaves every other byte of memory and everything else; a value of 2 to the bit depth
or more faults with code 8. Follows 45_control.md R223. -/
def Obligations.PutSampleResult : Prop :=
  ∀ (s : State) (n : BitVec 5) (c : BitVec 2) (x y v : BitVec 16), PlaneReady s n c →
    x.toNat < (s.slot n).cfg.planeW c.toNat → y.toNat < (s.slot n).cfg.planeH c.toNat →
    (v.toNat < 2 ^ (s.slot n).cfg.bitDepth c.toNat →
      ∃ t, exec (.putSample n c x y v) s = .next t ∧ KeepsCoef s t ∧
        ChangesSamples 3 (InBlock n .recon c.toNat x.toNat y.toNat 1 1) s t ∧
        memSample? t.mem (sampleAddr n .recon c.toNat x.toNat y.toNat) = some v) ∧
    (2 ^ (s.slot n).cfg.bitDepth c.toNat ≤ v.toNat →
      ∃ t, exec (.putSample n c x y v) s = .next t ∧ Faulted .codedParameterOutOfRange s t)

/-- With a slot in flight that has the plane, an aligned block inside it and a mode 0 to 34, INTRA_PRED writes at each
sample of the block the prediction of its mode from the gathered, substituted and filtered references, and leaves
every byte outside the block and everything else. Follows 41_intra.md R96, 41_intra.md R111. -/
def Obligations.IntraPredResult : Prop :=
  ∀ (s : State) (n : BitVec 5) (c : BitVec 2) (k : BitVec 3) (mode : BitVec 6) (x y : BitVec 16), PlaneReady s n c →
    BlockInPlane (s.slot n).cfg c.toNat k.toNat x.toNat y.toNat → mode.toNat ≤ 34 →
    ∃ t, exec (.intraPred n c k mode x y) s = .next t ∧ KeepsCoef s t ∧
      ChangesSamples 2 (InBlock n .recon c.toNat x.toNat y.toNat (2 ^ k.toNat) (2 ^ k.toNat)) s t ∧
      ∀ i j, i < 2 ^ k.toNat → j < 2 ^ k.toNat →
        memSample? t.mem (sampleAddr n .recon c.toNat (x.toNat + i) (y.toNat + j)) =
          some (BitVec.ofInt 16 (predictedSample
            (intraRefs (s.slot n).cfg (references s n c.toNat x.toNat y.toNat (2 ^ k.toNat)) c.toNat k.toNat mode.toNat)
            ((s.slot n).cfg.bitDepth c.toNat) c.toNat k.toNat mode.toNat i j))

/-- With a slot in flight that has the plane, an aligned block inside it, a qP in range, no transform skip above 4 by
4 and no level outside the block, RESIDUAL writes at each sample of the block the clipped sum of the sample and its
residual, clears the coefficient buffer, and leaves every byte outside the block and everything else. Follows
40_transform.md R89, 40_transform.md R94. -/
def Obligations.ResidualResult : Prop :=
  ∀ (s : State) (n : BitVec 5) (c : BitVec 2) (k : BitVec 3) (tskip : Bool) (qp : BitVec 7) (x y : BitVec 16),
    PlaneReady s n c → BlockInPlane (s.slot n).cfg c.toNat k.toNat x.toNat y.toNat →
    (qp.toNat : Int) ≤ 51 + (s.slot n).cfg.qpBdOffset c.toNat → (tskip = true → k = 2) →
    (∀ a b, a < 32 → b < 32 → (2 ^ k.toNat ≤ a ∨ 2 ^ k.toNat ≤ b) → s.me.coefAt a b = 0) →
    ∃ t, exec (.residual n c k tskip qp x y) s = .next t ∧ (∀ a b, t.me.coefAt a b = 0) ∧
      ChangesSamples 2 (InBlock n .recon c.toNat x.toNat y.toNat (2 ^ k.toNat) (2 ^ k.toNat)) s t ∧
      ∀ i j, i < 2 ^ k.toNat → j < 2 ^ k.toNat →
        memSample? t.mem (sampleAddr n .recon c.toNat (x.toNat + i) (y.toNat + j)) =
          some (BitVec.ofInt 16 (clip1 ((s.slot n).cfg.bitDepth c.toNat)
            (s.sample n .recon c.toNat (x.toNat + i) (y.toNat + j) 0 +
              entry ((blockResidual (s.slot n) s.me c.toNat k.toNat qp.toNat x.toNat y.toNat tskip).getD j []) i)))

/-- With a slot in flight that has the plane, a prediction block of legal size and place, at least one list in use and
every list in use naming an allocated slot other than this one of the same format, INTER_PRED writes at each sample of
the component block the weighted prediction, marks the slot DerivedFromErrors when a reference is degraded (unless it
is DecodingErrors), and leaves every byte outside the block and everything else. Follows 42_inter.md R141, 42_inter.md
R160, 42_inter.md R165. -/
def Obligations.InterPredResult : Prop :=
  ∀ (s : State) (n : BitVec 5) (c : BitVec 2) (expl : Bool) (denom : BitVec 3)
    (x y w h wt0 of0 wt1 of1 : BitVec 16) (sl : Slot) (md : MetaRec), sl = s.slot n →
    md = sl.metaAt x.toNat y.toNat → PlaneReady s n c → PbInPicture sl.cfg x.toNat y.toNat w.toNat h.toNat →
    (md.predFlagL0 = true ∨ md.predFlagL1 = true) →
    (md.predFlagL0 = true → md.refSlotL0.toNat < s.params.numSlots ∧ md.refSlotL0 ≠ n ∧
      (s.slot md.refSlotL0).alloc = true ∧ sameFormat (s.slot md.refSlotL0).cfg sl.cfg = true) →
    (md.predFlagL1 = true → md.refSlotL1.toNat < s.params.numSlots ∧ md.refSlotL1 ≠ n ∧
      (s.slot md.refSlotL1).alloc = true ∧ sameFormat (s.slot md.refSlotL1).cfg sl.cfg = true) →
    ∃ t, exec (.interPred n c expl denom x y w h wt0 of0 wt1 of1) s = .next t ∧ Completed 5 s t ∧ KeepsCoef s t ∧
      KeepsOtherSlots n s t ∧ KeepsWarnings s t ∧
      KeepsMemoryBut (InBlock n .recon c.toNat (x.toNat / sl.cfg.subW c.toNat) (y.toNat / sl.cfg.subH c.toNat)
        (w.toNat / sl.cfg.subW c.toNat) (h.toNat / sl.cfg.subH c.toNat)) s t ∧
      t.slot n = { sl with integrity := (t.slot n).integrity } ∧
      (t.slot n).integrity =
        (if ((md.predFlagL0 = true ∧ (s.slot md.refSlotL0).integrity ∈ [.decodingErrors, .derivedFromErrors]) ∨
             (md.predFlagL1 = true ∧ (s.slot md.refSlotL1).integrity ∈ [.decodingErrors, .derivedFromErrors])) ∧
            sl.integrity ≠ .decodingErrors then .derivedFromErrors else sl.integrity) ∧
      ∀ i j, i < w.toNat / sl.cfg.subW c.toNat → j < h.toNat / sl.cfg.subH c.toNat →
        memSample? t.mem (sampleAddr n .recon c.toNat (x.toNat / sl.cfg.subW c.toNat + i)
            (y.toNat / sl.cfg.subH c.toNat + j)) =
          some (BitVec.ofInt 16 (interSample s sl.cfg md
            ⟨expl, denom.toNat, wt0.toInt, of0.toInt, wt1.toInt, of1.toInt⟩ c.toNat
            (x.toNat / sl.cfg.subW c.toNat) (y.toNat / sl.cfg.subH c.toNat) i j))

/-- With a slot in flight of valid configuration and a CTB inside the picture, DEBLOCK writes each sample of its list
of writes at the value there, and leaves every other byte of memory and everything else. What stands on both sides of
a luma segment of the CTB, where those samples are written and in range: filtered by R178 to R181 with the strength of
R173 and R174 and the thresholds of R175 and R176 when the segment is an edge filtered by R171 and R172, but as before
on a protected side; as before when the segment is not. The same of a chroma segment, filtered by R183 when its anchor
is such a segment of strength 2 and as before otherwise. That a chroma segment whose anchor is no edge is left alone
is the model's choice (log 14). Follows 43_deblocking.md R172, 43_deblocking.md R173, 43_deblocking.md R174,
43_deblocking.md R178, 43_deblocking.md R179, 43_deblocking.md R180, 43_deblocking.md R181, 43_deblocking.md R182,
43_deblocking.md R183, 43_deblocking.md R184, 43_deblocking.md R186. -/
def Obligations.DeblockResult : Prop :=
  (∀ (s : State) (n : BitVec 5) (dir : Bool) (rx ry : BitVec 16), InFlight s n →
    validCfg s.params (s.slot n).cfg = none → rx.toNat < (s.slot n).cfg.widthInCtbs →
    ry.toNat < (s.slot n).cfg.heightInCtbs →
    ∃ t, exec (.deblock n dir rx ry) s = .next t ∧ KeepsCoef s t ∧
      ChangesSamples 2
        (fun a => ∃ w ∈ deblockWrites s n dir rx.toNat ry.toNat, a = w.1 ∨ a = w.1 + 1) s t ∧
      ∀ w ∈ deblockWrites s n dir rx.toNat ry.toNat, memSample? t.mem w.1 = some (BitVec.ofInt 16 w.2)) ∧
  (∀ (s t : State) (n : BitVec 5) (dir : Bool) (rx ry : BitVec 16) (x y k bd : Nat) (d : Int) (f : Nat → Int → Int)
      (sl : Slot), sl = s.slot n → bd = sl.cfg.bitDepth 0 → InFlight s n → validCfg s.params sl.cfg = none →
      SegmentOfCtb sl.cfg dir 0 x y rx ry → LinesAre s n dir 0 x y 4 f → k < 4 → -4 ≤ d → d < 4 →
      exec (.deblock n dir rx ry) s = .next t →
      (∀ mP mQ sq b, SegmentAt sl dir x y mP mQ sq b →
        (¬ Protected sl.cfg (if d < 0 then mP else mQ) → memSample? t.mem (edgeAddr n dir 0 x y k d) =
          some (BitVec.ofInt 16 (ruleLuma bd b (ruleBeta bd mP mQ sq) (ruleTc bd (meanQp mP mQ) sq b) f k d))) ∧
        (Protected sl.cfg (if d < 0 then mP else mQ) →
          memSample? t.mem (edgeAddr n dir 0 x y k d) = some (BitVec.ofInt 16 (f k d)))) ∧
      ((∀ mP mQ sq b, ¬ SegmentAt sl dir x y mP mQ sq b) →
        memSample? t.mem (edgeAddr n dir 0 x y k d) = some (BitVec.ofInt 16 (f k d)))) ∧
  (∀ (s t : State) (n : BitVec 5) (dir : Bool) (rx ry : BitVec 16) (c x y k bd : Nat) (d : Int) (f : Nat → Int → Int)
      (sl : Slot) (at' : MetaRec → MetaRec → SliceRec → Prop), sl = s.slot n → bd = sl.cfg.bitDepth c → 1 ≤ c →
      sl.cfg.planeExists c = true → InFlight s n → validCfg s.params sl.cfg = none →
      SegmentOfCtb sl.cfg dir c x y rx ry → LinesAre s n dir c x y 2 f → k < 4 → -2 ≤ d → d < 2 →
      at' = (fun mP mQ sq => SegmentAt sl dir (x * sl.cfg.subW c) (y * sl.cfg.subH c) mP mQ sq 2) →
      exec (.deblock n dir rx ry) s = .next t →
      (∀ mP mQ sq, at' mP mQ sq →
        (¬ Protected sl.cfg (if d < 0 then mP else mQ) → memSample? t.mem (edgeAddr n dir c x y k d) =
          some (BitVec.ofInt 16 (ruleChroma bd (ruleTc bd (ruleChromaSegmentQp sl.cfg c mP mQ) sq 2) (f k) d))) ∧
        (Protected sl.cfg (if d < 0 then mP else mQ) →
          memSample? t.mem (edgeAddr n dir c x y k d) = some (BitVec.ofInt 16 (f k d)))) ∧
      ((∀ mP mQ sq, ¬ at' mP mQ sq) →
        memSample? t.mem (edgeAddr n dir c x y k d) = some (BitVec.ofInt 16 (f k d))))

/-- With a slot in flight and a CTB inside the picture, SAO writes at every sample of every plane of the CTB region of
Out the value R200 gives, and leaves every other byte of memory and everything else. Follows 44_sao.md R194, 44_sao.md
R200. -/
def Obligations.SaoResult : Prop :=
  ∀ (s : State) (n : BitVec 5) (rx ry : BitVec 16) (g : CfgRegs), g = (s.slot n).cfg → InFlight s n →
    rx.toNat < g.widthInCtbs → ry.toNat < g.heightInCtbs →
    ∃ t, exec (.sao n rx ry) s = .next t ∧ KeepsCoef s t ∧
      ChangesSamples 2 (fun a => ∃ c, g.planeExists c = true ∧
        InBlock n .out c (g.ctbStart rx.toNat (g.subW c)) (g.ctbStart ry.toNat (g.subH c))
          (g.ctbLength rx.toNat (g.subW c) (g.planeW c)) (g.ctbLength ry.toNat (g.subH c) (g.planeH c)) a) s t ∧
      ∀ c x y, g.planeExists c = true →
        rx.toNat * g.ctbSize / g.subW c ≤ x → x < (rx.toNat + 1) * g.ctbSize / g.subW c → x < g.planeW c →
        ry.toNat * g.ctbSize / g.subH c ≤ y → y < (ry.toNat + 1) * g.ctbSize / g.subH c → y < g.planeH c →
        memSample? t.mem (sampleAddr n .out c x y) =
          some (BitVec.ofInt 16 (if saoApplied (s.slot n) c rx.toNat ry.toNat then
            saoSample s n c ((s.slot n).saoAt c rx.toNat ry.toNat) x y
            else s.sample n .recon c x y (3 * cellKey x y)))

/-- With a slot in flight, a value 0 to 4 and a CTB inside the picture, SET_PROGRESS stores a value that is not below
the cell's and leaves every other cell and everything else; a value below the cell's faults with PROGRESS_DECREASE.
Follows 45_control.md R225, 10_state.md R38. -/
def Obligations.SetProgressResult : Prop :=
  ∀ (s : State) (n : BitVec 5) (v : BitVec 3) (rx ry : BitVec 16), InFlight s n → v.toNat ≤ 4 →
    rx.toNat < (s.slot n).cfg.widthInCtbs → ry.toNat < (s.slot n).cfg.heightInCtbs →
    (((s.slot n).progressAt rx.toNat ry.toNat).toNat ≤ v.toNat →
      ∃ t, exec (.setProgress n v rx ry) s = .next t ∧ ChangesSlot 2 n s t ∧
        t.slot n = { s.slot n with progress := (t.slot n).progress } ∧
        ((t.slot n).progressAt rx.toNat ry.toNat).toNat = v.toNat ∧
        ∀ x y, x < 65536 → y < 65536 → ¬ (x = rx.toNat ∧ y = ry.toNat) →
          (t.slot n).progressAt x y = (s.slot n).progressAt x y) ∧
    (v.toNat < ((s.slot n).progressAt rx.toNat ry.toNat).toNat →
      ∃ t, exec (.setProgress n v rx ry) s = .next t ∧ Faulted .progressDecrease s t)

/-- With an allocated slot, a value 0 to 4 and a CTB inside its picture, WAIT_PROGRESS completes and changes nothing
but the command count when the cell has reached the value, and otherwise changes nothing at all and every engine that
is not FAULTED and has that wait at its head reads HELD. That such an engine reads HELD before its own turn is the
model's choice (log 11). With a slot that is not allocated it faults with SLOT_NOT_ALLOCATED whatever its other
fields, at every evaluation, so also when it held before the slot was freed. Follows 45_control.md R226,
60_exceptions.md R237, 10_state.md R28. -/
def Obligations.WaitProgressResult : Prop :=
  ∀ (s : State) (n : BitVec 5) (v : BitVec 3) (rx ry : BitVec 16), n.toNat < s.params.numSlots →
    ((s.slot n).alloc = true → v.toNat ≤ 4 → rx.toNat < (s.slot n).cfg.widthInCtbs →
      ry.toNat < (s.slot n).cfg.heightInCtbs →
      (v.toNat ≤ ((s.slot n).progressAt rx.toNat ry.toNat).toNat →
        ∃ t, exec (.waitProgress n v rx ry) s = .next t ∧ Completed 2 s t ∧ KeepsCoef s t ∧ KeepsSlots s t ∧
          KeepsMemory s t ∧ KeepsWarnings s t) ∧
      (((s.slot n).progressAt rx.toNat ry.toNat).toNat < v.toNat →
        exec (.waitProgress n v rx ry) s = .next s ∧
        ∀ e, (s.engine e).faulted = false → decode (s.engine e).queue = .ok (.waitProgress n v rx ry) →
          s.engineState e = .held)) ∧
    ((s.slot n).alloc = false →
      ∃ t, exec (.waitProgress n v rx ry) s = .next t ∧ Faulted .slotNotAllocated s t ∧ KeepsCoef s t)

/-- RESIDUAL on a level outside its block raises COEFFICIENT_OUT_OF_IMAGE_BOUNDS. Each of the thirteen commands with a
place, once its earlier checks pass, raises CTB_OUTSIDE_IMAGE_AREA on a block, sample or CTB outside the picture. Each
of the fourteen commands that check a field's range, once the checks before it pass, raises
CODED_PARAMETER_OUT_OF_RANGE on a value out of range: REG_WRITE number, SET_CTB address and tile, SET_SLICE offsets,
SET_CU size, alignment, QPY and PCM without INTRA, MARK_TB size and alignment, MARK_PB alignment, size and slots,
SET_SAO type and POS, SET_SCALING matrix, position and value, PUT_SAMPLE value, INTRA_PRED size, mode and alignment,
RESIDUAL size, alignment, QP and TSKIP, INTER_PRED alignment and size, SET_PROGRESS and WAIT_PROGRESS value. PIC_INIT
raises IMAGE_BUFFER_FULL on an allocated slot, and else what the configuration check finds,
CODED_PARAMETER_OUT_OF_RANGE or OUT_OF_MEMORY. SET_SLICE and SET_CTB raise MAX_SLICES_EXCEEDED on a slice index of
MAX_SLICES or more. Each fault records its code and the command's index and leaves everything else, but that RESIDUAL
clears the coefficient buffer. Follows 60_exceptions.md R232, 30_encoding.md R66, 60_exceptions.md R230,
40_transform.md R94, 45_control.md R216, 45_control.md R219, 45_control.md R220. -/
def Obligations.FaultCodes : Prop :=
  (∀ (s : State) (n : BitVec 5) (c : BitVec 2) (k : BitVec 3) (tskip : Bool) (qp : BitVec 7) (x y : BitVec 16)
      (a b : Nat), PlaneReady s n c → BlockInPlane (s.slot n).cfg c.toNat k.toNat x.toNat y.toNat →
      (qp.toNat : Int) ≤ 51 + (s.slot n).cfg.qpBdOffset c.toNat → (tskip = true → k = 2) → a < 32 → b < 32 →
      (2 ^ k.toNat ≤ a ∨ 2 ^ k.toNat ≤ b) → s.me.coefAt a b ≠ 0 →
      ∃ t, exec (.residual n c k tskip qp x y) s = .next t ∧ Faulted .coefficientOutOfImageBounds s t ∧
        ∀ a b, t.me.coefAt a b = 0) ∧
  (∀ (i : Instr) (s : State) (n : BitVec 5) (g : CfgRegs), namedSlot i = some n → g = (s.slot n).cfg →
      ReachesPlaceCheck s i → OutsidePicture g i →
      ∃ t, exec i s = .next t ∧ Faulted .ctbOutsideImageArea s t ∧
        ((∀ m c k tskip qp x y, i ≠ .residual m c k tskip qp x y) → KeepsCoef s t) ∧
        (∀ m c k tskip qp x y, i = .residual m c k tskip qp x y → ∀ a b, t.me.coefAt a b = 0)) ∧
  (∀ (i : Instr) (s : State), FieldOutOfRange s i →
      ∃ t, exec i s = .next t ∧ Faulted .codedParameterOutOfRange s t ∧
        ((∀ m c k tskip qp x y, i ≠ .residual m c k tskip qp x y) → KeepsCoef s t) ∧
        (∀ m c k tskip qp x y, i = .residual m c k tskip qp x y → ∀ a b, t.me.coefAt a b = 0)) ∧
  (∀ (s : State) (n : BitVec 5), n.toNat < s.params.numSlots → (s.slot n).alloc = true →
      ∃ t, exec (.picInit n) s = .next t ∧ Faulted .imageBufferFull s t ∧ KeepsCoef s t) ∧
  (∀ (s : State) (n : BitVec 5) (code : FaultCode), n.toNat < s.params.numSlots → (s.slot n).alloc = false →
      validCfg s.params (s.slot n).cfg = some code →
      ∃ t, exec (.picInit n) s = .next t ∧ Faulted code s t ∧ KeepsCoef s t ∧
        (code = .codedParameterOutOfRange ∨ code = .outOfMemory)) ∧
  (∀ (s : State) (n : BitVec 5) (idx : BitVec 16) (dbk lf saoL saoC : Bool) (beta tc : BitVec 4), InFlight s n →
      s.params.maxSlices ≤ idx.toNat →
      ∃ t, exec (.setSlice n idx dbk lf saoL saoC beta tc) s = .next t ∧ Faulted .maxSlicesExceeded s t ∧
        KeepsCoef s t) ∧
  (∀ (s : State) (n : BitVec 5) (rx ry : BitVec 16) (addr : BitVec 32) (slice tile : BitVec 16), InFlight s n →
      rx.toNat < (s.slot n).cfg.widthInCtbs → ry.toNat < (s.slot n).cfg.heightInCtbs →
      addr.toNat < (s.slot n).cfg.widthInCtbs * (s.slot n).cfg.heightInCtbs → s.params.maxSlices ≤ slice.toNat →
      ∃ t, exec (.setCtb n rx ry addr slice tile) s = .next t ∧ Faulted .maxSlicesExceeded s t ∧ KeepsCoef s t)

/-- ValidCfg yields CODED_PARAMETER_OUT_OF_RANGE exactly when one of items 1 to 6 fails; when none does, OUT_OF_MEMORY
exactly when the picture or the window of an existing plane is too large; and OK otherwise. Follows 45_control.md
R213. -/
def Obligations.ValidCfgChecks : Prop :=
  ∀ (p : Params) (g : CfgRegs),
    (validCfg p g = some .codedParameterOutOfRange ↔ ¬ FieldsInRange g) ∧
    (validCfg p g = some .outOfMemory ↔ FieldsInRange g ∧ TooLarge p g) ∧
    (validCfg p g = none ↔ FieldsInRange g ∧ ¬ TooLarge p g)

/-- In every state, with every operand, RESIDUAL leaves every level of the executing engine's buffer 0, and every
other engine as it was. For a SLOT at or above NUM_SLOTS and for component 3 this is the model's choice (log 13, log
16). Follows 10_state.md R40, 60_exceptions.md R230. -/
def Obligations.ResidualClearsCoef : Prop :=
  ∀ (s : State) (n : BitVec 5) (c : BitVec 2) (k : BitVec 3) (tskip : Bool) (qp : BitVec 7) (x y : BitVec 16),
    ∃ t, exec (.residual n c k tskip qp x y) s = .next t ∧ (∀ a b, t.me.coefAt a b = 0) ∧
      ∀ e, e ≠ s.cur → t.engine e = s.engine e

/-- With a valid configuration and every level at x, y < N zero, RESIDUAL with any other fields, whether it completes
or faults, leaves every written sample of its N by N block at its value: exactly for a value of the sample range, and
modulo 2 to the bit depth for a stored value above it, which commands read masked. When its checks pass and the whole
buffer is zero it completes. Follows 40_transform.md R93, 20_memory.md R53. -/
def Obligations.ResidualZero : Prop :=
  ∀ (s : State) (n : BitVec 5) (c : BitVec 2) (k : BitVec 3) (tskip : Bool) (qp : BitVec 7) (x y : BitVec 16),
    validCfg s.params (s.slot n).cfg = none →
    (∀ a b, a < 2 ^ k.toNat → b < 2 ^ k.toNat → s.me.coefAt a b = 0) →
    ∃ t, exec (.residual n c k tskip qp x y) s = .next t ∧
      (∀ i j v, i < 2 ^ k.toNat → j < 2 ^ k.toNat →
        memSample? s.mem (sampleAddr n .recon c.toNat (x.toNat + i) (y.toNat + j)) = some v →
        ∃ v', memSample? t.mem (sampleAddr n .recon c.toNat (x.toNat + i) (y.toNat + j)) = some v' ∧
          v'.toNat % 2 ^ (s.slot n).cfg.bitDepth c.toNat = v.toNat % 2 ^ (s.slot n).cfg.bitDepth c.toNat ∧
          (v.toNat < 2 ^ (s.slot n).cfg.bitDepth c.toNat → v' = v)) ∧
      (PlaneReady s n c → BlockInPlane (s.slot n).cfg c.toNat k.toNat x.toNat y.toNat →
        (qp.toNat : Int) ≤ 51 + (s.slot n).cfg.qpBdOffset c.toNat → (tskip = true → k = 2) →
        (∀ a b, a < 32 → b < 32 → s.me.coefAt a b = 0) → Completed 2 s t)

/-- At 8 bits, qP 4, a 4 by 4 DCT block with flat scaling and only level L at (0, 0), L from -1024 to 1023, has at
every position the residual R91 gives. Follows 40_transform.md R91. -/
def Obligations.ResidualFlatDc : Prop :=
  ∀ (L : Int), -1024 ≤ L → L ≤ 1023 →
    residualRows 8 2 4 false false .dct (fun _ _ => 16) (fun x y => if x = 0 ∧ y = 0 then L else 0) =
      List.replicate 4 (List.replicate 4 (shr (shr (32 * L * 64 + 64) 7 * 64 + 2048) 12))

/-- When every reference entry is available and equal to v, a value of the sample range, every mode 0 to 34 at every
block size predicts v at every sample, in luma and in chroma, with and without the smoothing filters. Follows
41_intra.md R114. -/
def Obligations.IntraFlat : Prop :=
  ∀ (g : CfgRegs) (c k mode x y : Nat) (v : Int), 2 ≤ k → k ≤ 5 → mode ≤ 34 → x < 2 ^ k → y < 2 ^ k → 0 ≤ v →
    v < 2 ^ g.bitDepth c →
    predictedSample (intraRefs g (List.replicate (4 * 2 ^ k + 1) (some v)) c k mode) (g.bitDepth c) c k mode x y = v

/-- With a valid configuration, an aligned block in the plane and no reference entry usable, INTRA_PRED of every mode
writes 1 << (BitDepth - 1) at every sample of the block. Follows 41_intra.md R103, 41_intra.md R111. -/
def Obligations.IntraNoNeighbour : Prop :=
  ∀ (s : State) (n : BitVec 5) (c : BitVec 2) (k : BitVec 3) (mode : BitVec 6) (x y : BitVec 16) (g : CfgRegs),
    g = (s.slot n).cfg → PlaneReady s n c → validCfg s.params g = none →
    BlockInPlane g c.toNat k.toNat x.toNat y.toNat → mode.toNat ≤ 34 →
    (∀ o : Nat, o < 4 * 2 ^ k.toNat + 1 →
      refUsable (s.slot n) (x.toNat * g.subW c.toNat) (y.toNat * g.subH c.toNat)
        ((x.toNat + (refOffset (2 ^ k.toNat) o).1) * g.subW c.toNat)
        ((y.toNat + (refOffset (2 ^ k.toNat) o).2) * g.subH c.toNat) = false) →
    ∃ t, exec (.intraPred n c k mode x y) s = .next t ∧ Completed 2 s t ∧
      ∀ i j, i < 2 ^ k.toNat → j < 2 ^ k.toNat →
        memSample? t.mem (sampleAddr n .recon c.toNat (x.toNat + i) (y.toNat + j)) =
          some (BitVec.ofNat 16 (2 ^ (g.bitDepth c.toNat - 1)))

/-- In two states that agree but for their memory, and whose memories agree on the Rec samples of the usable reference
entries of a block, INTRA_PRED writes the same samples into the block. Follows 41_intra.md R102, 41_intra.md R114. -/
def Obligations.IntraIgnoresUnavailable : Prop :=
  ∀ (s : State) (m : List Host.Cell) (n : BitVec 5) (c : BitVec 2) (k : BitVec 3) (mode : BitVec 6) (x y : BitVec 16)
    (g : CfgRegs), g = (s.slot n).cfg → PlaneReady s n c → BlockInPlane g c.toNat k.toNat x.toNat y.toNat →
    mode.toNat ≤ 34 →
    (∀ (o : Nat) (px py : Int), o < 4 * 2 ^ k.toNat + 1 → px = x.toNat + (refOffset (2 ^ k.toNat) o).1 →
      py = y.toNat + (refOffset (2 ^ k.toNat) o).2 →
      refUsable (s.slot n) (x.toNat * g.subW c.toNat) (y.toNat * g.subH c.toNat) (px * g.subW c.toNat)
        (py * g.subH c.toNat) = true →
      memSample? m (sampleAddr n .recon c.toNat px.toNat py.toNat) =
        memSample? s.mem (sampleAddr n .recon c.toNat px.toNat py.toNat)) →
    ∃ t u, exec (.intraPred n c k mode x y) s = .next t ∧ exec (.intraPred n c k mode x y) { s with mem := m } = .next u ∧
      ∀ i j, i < 2 ^ k.toNat → j < 2 ^ k.toNat →
        memSample? u.mem (sampleAddr n .recon c.toNat (x.toNat + i) (y.toNat + j)) =
          memSample? t.mem (sampleAddr n .recon c.toNat (x.toNat + i) (y.toNat + j))

/-- With a slot in flight that has the plane and a block of legal size and place: a block with both prediction flags 0
queues 1011; one whose first list in use that fails R158 names a free slot queues 1012; either way the slot becomes
DecodingErrors, no sample is written, and a full warning queue drops its oldest entry and records the overflow. A
block whose first list in use that fails R158 names a slot that does not exist, the slot itself, or a picture of
another format faults with CODED_PARAMETER_OUT_OF_RANGE. Follows 42_inter.md R158, 42_inter.md R159, 60_exceptions.md
R233. -/
def Obligations.InterWarns : Prop :=
  ∀ (s : State) (n : BitVec 5) (c : BitVec 2) (expl : Bool) (denom : BitVec 3)
    (x y w h wt0 of0 wt1 of1 : BitVec 16) (md : MetaRec),
    md = (s.slot n).metaAt x.toNat y.toNat → PlaneReady s n c →
    PbInPicture (s.slot n).cfg x.toNat y.toNat w.toNat h.toNat →
    (∀ code : BitVec 16,
      ((md.predFlagL0 = false ∧ md.predFlagL1 = false ∧ code = 1011) ∨
       (md.predFlagL0 = true ∧ RefMissing s n md.refSlotL0 ∧ code = 1012) ∨
       (md.predFlagL1 = true ∧ (md.predFlagL0 = true → RefGood s n md.refSlotL0) ∧ RefMissing s n md.refSlotL1 ∧
         code = 1012)) →
      ∃ t, exec (.interPred n c expl denom x y w h wt0 of0 wt1 of1) s = .next t ∧ Completed 5 s t ∧ KeepsCoef s t ∧
        KeepsOtherSlots n s t ∧ KeepsMemory s t ∧ t.slot n = { s.slot n with integrity := .decodingErrors } ∧
        (s.warn.length < s.params.warnDepth → t.warn = s.warn ++ [code] ∧ t.warnOverflow = s.warnOverflow) ∧
        (s.params.warnDepth ≤ s.warn.length → t.warn = s.warn.tail ++ [code] ∧ t.warnOverflow = true)) ∧
    ((md.predFlagL0 = true ∧ RefBad s n md.refSlotL0) ∨
     (md.predFlagL1 = true ∧ (md.predFlagL0 = true → RefGood s n md.refSlotL0) ∧ RefBad s n md.refSlotL1) →
      ∃ t, exec (.interPred n c expl denom x y w h wt0 of0 wt1 of1) s = .next t ∧
        Faulted .codedParameterOutOfRange s t ∧ KeepsCoef s t)

/-- With a valid configuration, INTER_PRED of a block that uses one list alone, either of the two, with vector (0, 0),
default weighting and a reference that passes R158, writes at each sample of the component block the reference
picture's Out sample at the same place, where that sample is written, reduced to the bit depth. Follows 42_inter.md
R161, 42_inter.md R158, 42_inter.md R148, 42_inter.md R153, 20_memory.md R53. -/
def Obligations.InterZeroMotion : Prop :=
  ∀ (s : State) (n r : BitVec 5) (c : BitVec 2) (denom : BitVec 3) (x y w h wt0 of0 wt1 of1 : BitVec 16) (sl : Slot)
    (md : MetaRec), sl = s.slot n → md = sl.metaAt x.toNat y.toNat → PlaneReady s n c →
    validCfg s.params sl.cfg = none → PbInPicture sl.cfg x.toNat y.toNat w.toNat h.toNat →
    ((md.predFlagL0 = true ∧ md.predFlagL1 = false ∧ md.mvL0 = ⟨0, 0⟩ ∧ r = md.refSlotL0) ∨
     (md.predFlagL0 = false ∧ md.predFlagL1 = true ∧ md.mvL1 = ⟨0, 0⟩ ∧ r = md.refSlotL1)) → RefGood s n r →
    (∀ bd p : Nat, 8 ≤ bd → bd ≤ 12 →
      shr (shl p (interShift3 bd) + 2 ^ (13 - bd)) (14 - bd) = p) ∧
    ∃ t, exec (.interPred n c false denom x y w h wt0 of0 wt1 of1) s = .next t ∧ Completed 5 s t ∧
      ∀ i j px py v, i < w.toNat / sl.cfg.subW c.toNat → j < h.toNat / sl.cfg.subH c.toNat →
        px = x.toNat / sl.cfg.subW c.toNat + i → py = y.toNat / sl.cfg.subH c.toNat + j →
        memSample? s.mem (sampleAddr r .out c.toNat px py) = some v →
        memSample? t.mem (sampleAddr n .recon c.toNat px py) =
          some (BitVec.ofNat 16 (v.toNat % 2 ^ sl.cfg.bitDepth c.toNat))

/-- With a slot in flight of valid configuration and a CTB whose slice has deblockDisabled set, DEBLOCK of that CTB in
either direction completes and changes no byte of memory. Follows 43_deblocking.md R172, 44_sao.md R203. -/
def Obligations.DeblockDisabled : Prop :=
  ∀ (s : State) (n : BitVec 5) (dir : Bool) (rx ry : BitVec 16), InFlight s n →
    validCfg s.params (s.slot n).cfg = none → rx.toNat < (s.slot n).cfg.widthInCtbs →
    ry.toNat < (s.slot n).cfg.heightInCtbs →
    ((s.slot n).sliceAt ((s.slot n).ctbAt rx.toNat ry.toNat).sliceIdx).deblockDisabled = true →
    ∃ t, exec (.deblock n dir rx ry) s = .next t ∧ Completed 2 s t ∧ KeepsCoef s t ∧ KeepsSlots s t ∧
      KeepsMemory s t ∧ KeepsWarnings s t

/-- In every state, with every slot of valid configuration, no sample is written twice by one DEBLOCK, so the order in
which its segments are filtered does not matter; and it writes on the far side of its CTB's left or top boundary at
most 3 luma samples or 1 chroma sample. Follows 43_deblocking.md R185, 43_deblocking.md R186. -/
def Obligations.DeblockDisjoint : Prop :=
  ∀ (s : State) (n : BitVec 5) (dir : Bool) (rx ry : Nat) (g : CfgRegs), g = (s.slot n).cfg →
    validCfg s.params g = none → rx < g.widthInCtbs → ry < g.heightInCtbs →
    ((deblockWrites s n dir rx ry).map Prod.fst).Nodup ∧
    ∀ w ∈ deblockWrites s n dir rx ry, ∃ c x y, g.planeExists c = true ∧ w.1 = sampleAddr n .recon c x y ∧
      x < g.planeW c ∧ y < g.planeH c ∧
      rx * g.ctbSize / g.subW c ≤ x + (if dir then 0 else if c = 0 then 3 else 1) ∧
      x < (rx + 1) * g.ctbSize / g.subW c ∧
      ry * g.ctbSize / g.subH c ≤ y + (if dir then (if c = 0 then 3 else 1) else 0) ∧
      y < (ry + 1) * g.ctbSize / g.subH c

/-- With a slot in flight of valid configuration whose sample_adaptive_offset_enabled_flag is 0, SAO of a CTB makes
every sample of Out in the CTB equal to the sample of Rec, where that is written, reduced to the bit depth. Follows
44_sao.md R199, 44_sao.md R203. -/
def Obligations.SaoOff : Prop :=
  ∀ (s : State) (n : BitVec 5) (rx ry : BitVec 16) (g : CfgRegs), g = (s.slot n).cfg → InFlight s n →
    validCfg s.params g = none → g.saoEnabled = false → rx.toNat < g.widthInCtbs → ry.toNat < g.heightInCtbs →
    ∃ t, exec (.sao n rx ry) s = .next t ∧ Completed 2 s t ∧
      ∀ c x y v, g.planeExists c = true → x < g.planeW c → y < g.planeH c →
        x * g.subW c / g.ctbSize = rx.toNat → y * g.subH c / g.ctbSize = ry.toNat →
        memSample? s.mem (sampleAddr n .recon c x y) = some v →
        memSample? t.mem (sampleAddr n .out c x y) = some (BitVec.ofNat 16 (v.toNat % 2 ^ g.bitDepth c))

/-- The four bands from bandPos on, wrapping at 32, have classes 1 to 4 and every other band class 0; a sample below
both neighbours has edge class 1, below one and equal to the other 2, above one and equal to the other 3, above both
4, and otherwise 0. Follows 44_sao.md R192, 44_sao.md R195. -/
def Obligations.SaoClasses : Prop :=
  (∀ (bd : Nat) (pos : BitVec 5) (v : Nat), 8 ≤ bd → bd ≤ 12 → v < 2 ^ bd →
    (∀ k, k < 4 → v / 2 ^ (bd - 5) = (k + pos.toNat) % 32 → bandIdx bd pos v = k + 1) ∧
    ((∀ k, k < 4 → v / 2 ^ (bd - 5) ≠ (k + pos.toNat) % 32) → bandIdx bd pos v = 0)) ∧
  (∀ v a b : Int, edgeIdx v a b =
    if v < a ∧ v < b then 1
    else if (v < a ∧ v = b) ∨ (v = a ∧ v < b) then 2
    else if (v > a ∧ v = b) ∨ (v = a ∧ v > b) then 3
    else if v > a ∧ v > b then 4 else 0)

/-- When the next move is get_warning: after an overflow it clears the flag and returns 1001; otherwise it returns 0
when no warning is queued, and else takes the oldest off the queue and returns it. Nothing else changes. Follows
60_exceptions.md R241. -/
def Obligations.GetWarning : Prop :=
  ∀ (s : State), s.nextEvent = .host .getWarning →
    (s.warnOverflow = true →
      step s = .next { s.advanceAgenda with warnOverflow := false, reply := .value 1001 }) ∧
    (s.warnOverflow = false → s.warn = [] → step s = .next { s.advanceAgenda with reply := .value 0 }) ∧
    (∀ w rest, s.warnOverflow = false → s.warn = w :: rest →
      step s = .next { s.advanceAgenda with warn := rest, reply := .value (BitVec.ofNat 32 w.toNat) })

/-- push appends a word to the queue of its engine or is refused with FULL when the queue holds QUEUE_DEPTH words;
read_status returns the registers and the number of queued words, with STATE 3 when FAULTED, 0 when not FAULTED and
without a complete command, 2 when not FAULTED and the head is a WAIT_PROGRESS of an allocated slot, a value 0 to 4
and a CTB of the picture whose cell is below the value, and 1 otherwise; write_ctrl sets IRQ_EN to bit 0 alone;
read_cfg returns the register for numbers 0 to 6 and 0 for others; read_slot returns Alloc, Done and the integrity;
read_progress of an allocated slot returns the cell, and 0 outside the CTB array; none changes anything else; and the
interrupt line is high exactly when some engine is FAULTED with IRQ_EN set. That STATE reads 2 before the engine's
turn is the model's choice (log 11), and that read_progress of a slot that is not allocated returns the cell is too
(log 22). Follows 10_state.md R25, 10_state.md R26, 10_state.md R28, 60_exceptions.md R238, 60_exceptions.md R240. -/
def Obligations.HostRegisters : Prop :=
  (∀ (s : State) (e : BitVec 5), e.toNat < s.params.numEngines →
    (∀ w, s.params.queueDepth ≤ (s.engine e).queue.length →
      hostStep (.push e w) s = .next { s with reply := .full }) ∧
    (∀ w, (s.engine e).queue.length < s.params.queueDepth →
      ∃ t, hostStep (.push e w) s = .next t ∧ t = { s with engines := t.engines, reply := .done } ∧
        t.engine e = { s.engine e with queue := (s.engine e).queue ++ [w] } ∧
        (∀ d, d ≠ e → t.engine d = s.engine d)) ∧
    (∃ v r, hostStep (.readStatus e) s = .next { s with reply := r } ∧
      r = .status v (s.engine e).errCode (s.engine e).errCmd (BitVec.ofNat 32 (s.engine e).irqEn.toNat)
        (s.engine e).cmdCount (s.engine e).queue.length ∧ v.toNat < 4 ∧
      (v = 3 ↔ (s.engine e).faulted = true) ∧
      (v = 0 ↔ (s.engine e).faulted = false ∧ holdsCommand (s.engine e).queue = false) ∧
      (v = 2 ↔ (s.engine e).faulted = false ∧ WaitsAtHead s e) ∧
      (v = 1 ↔ (s.engine e).faulted = false ∧ holdsCommand (s.engine e).queue = true ∧ ¬ WaitsAtHead s e)) ∧
    (∀ v, ∃ t, hostStep (.writeCtrl e v) s = .next t ∧ t = { s with engines := t.engines, reply := .done } ∧
      t.engine e = { s.engine e with irqEn := v.getLsbD 0 } ∧ (∀ d, d ≠ e → t.engine d = s.engine d))) ∧
  (∀ (s : State) (n : BitVec 5), n.toNat < s.params.numSlots →
    (∀ r : BitVec 8, ∃ v, hostStep (.readCfg n r) s = .next { s with reply := .value v } ∧
      (r = 0 → v = (s.slot n).cfg.picWidthReg) ∧ (r = 1 → v = (s.slot n).cfg.picHeightReg) ∧
      (r = 2 → v = (s.slot n).cfg.formatReg) ∧ (r = 3 → v = (s.slot n).cfg.flagsReg) ∧
      (r = 4 → v = (s.slot n).cfg.qpOffsetsReg) ∧ (r = 5 → v = (s.slot n).cfg.strideYReg) ∧
      (r = 6 → v = (s.slot n).cfg.strideCReg) ∧ (6 < r.toNat → v = 0)) ∧
    (∃ v, hostStep (.readSlot n) s = .next { s with reply := .value v } ∧
      v.getLsbD 0 = (s.slot n).alloc ∧ v.getLsbD 1 = (s.slot n).done ∧ v.toNat < 16 ∧
      v.toNat / 4 = match (s.slot n).integrity with
        | .notDecoded => 0
        | .decoded => 1
        | .decodingErrors => 2
        | .derivedFromErrors => 3) ∧
    (∀ rx ry : BitVec 16, ∃ v, hostStep (.readProgress n rx ry) s = .next { s with reply := .value v } ∧
      ((s.slot n).alloc = true → CtbOutside (s.slot n).cfg rx ry → v = 0) ∧
      ((s.slot n).alloc = true → ¬ CtbOutside (s.slot n).cfg rx ry →
        v.toNat = ((s.slot n).progressAt rx.toNat ry.toNat).toNat) ∧
      ((s.slot n).alloc = false → v.toNat = ((s.slot n).progressAt rx.toNat ry.toNat).toNat))) ∧
  (∀ s : State, s.params.numEngines ≤ 32 → (s.irq = true ↔ ∃ d : BitVec 5, d.toNat < s.params.numEngines ∧
    (s.engine d).faulted = true ∧ (s.engine d).irqEn = true))

/-- A window write that is not refused changes no byte but those of samples it addresses: of a two-byte sample the
bytes it addresses alone, unless the sample was unwritten; of a one-byte sample its two stored bytes; nothing for
padding. It changes nothing else. When no byte is padding, a window read of the same address and width then returns
the bytes written, assembled little-endian, and changes nothing but the reply. Which sample a byte belongs to in a
slot without a valid configuration is the model's choice (log 26), and so are the second stored byte of a one-byte
sample (log 7) and the other byte of an unwritten sample (log 6). Follows 20_memory.md R50, 20_memory.md R53,
20_memory.md R60. -/
def Obligations.MemWriteRead : Prop :=
  ∀ (s : State) (a : BitVec 40) (n : Nat) (v : Word), s.windowRefuses a n = false →
    ∃ t, hostStep (.memWrite a n v) s = .next t ∧
      t = { s with mem := t.mem, draws := t.draws, reply := .done } ∧
      KeepsMemoryBut (fun p => ∃ m set c x y i, .sample m set c x y i ∈ s.windowBytes a n ∧
        (p = sampleAddr m set c x y + i ∨ (p = sampleAddr m set c x y + (1 - i) ∧
          ((s.slot m).cfg.bps c = 1 ∨ memByte? s.mem p = none)))) s t ∧
      ((∀ b ∈ s.windowBytes a n, b ≠ .padding) →
        ∃ u, hostStep (.memRead a n) t = .next u ∧ u = { t with draws := u.draws, reply := u.reply } ∧
          u.reply = .value (BitVec.ofNat 32 (v.toNat % 2 ^ (8 * n))))

/-- A window access of a width other than 1, 2 and 4, at an offset that is not a multiple of its width, or with a byte
outside the window, returns the error CODED_PARAMETER_OUT_OF_RANGE, and changes nothing but the reply. That an access
is refused when any one of its bytes is outside, and that every byte of a slot at or above NUM_SLOTS is outside, is
the model's choice (log 9). Follows 20_memory.md R52, 60_exceptions.md R240. -/
def Obligations.WindowRefusal : Prop :=
  ∀ (s : State) (a : BitVec 40) (n : Nat) (v : Word),
    ((n ≠ 1 ∧ n ≠ 2 ∧ n ≠ 4) ∨ (a.toNat % 2 ^ 32) % n ≠ 0 ∨
      (∃ i, i < n ∧ s.windowByte (windowSlot a) (windowSet a) (windowPlane a) (a.toNat % 2 ^ 32 + i) = .outside)) →
    hostStep (.memRead a n) s = .next { s with reply := .error 8 } ∧
    hostStep (.memWrite a n v) s = .next { s with reply := .error 8 }

/-- In every weakly fair endless run, if from some moment on an engine that exists is not FAULTED and has at its head
a WAIT_PROGRESS whose checks pass and whose condition is true for as long as the engine gets no turn, then the engine
gets a turn and the wait completes. Follows 20_memory.md R57, 60_exceptions.md R237. -/
def Obligations.HeldEventually : Prop :=
  ∀ (run : Nat → State) (e : BitVec 5) (k : Nat) (n : BitVec 5) (v : BitVec 3) (rx ry : BitVec 16), IsRun run →
    WeaklyFair run → e.toNat < (run k).params.numEngines →
    (∀ j, k ≤ j → (∀ m, k ≤ m → m < j → (run m).nextEvent ≠ .engine e) →
      ((run j).engine e).faulted = false ∧ decode ((run j).engine e).queue = .ok (.waitProgress n v rx ry) ∧
      waitReached n v rx ry (run j) = .ok true) →
    ∃ j, k ≤ j ∧ (run j).nextEvent = .engine e ∧
      ((run (j + 1)).engine e).cmdCount = ((run j).engine e).cmdCount + 1
end

