-- ==== Sys2Proof/Laws/Sparse.lean ====
section
/-! SUPPORT. Reading and writing sparse data, and its canonical form. -/

namespace Sys2Proof.Machine

variable {α : Type}

/-! ## Reading back -/

theorem sparseFind_insert_same (l : Sparse α) (k : Nat) (v : α) : sparseFind? (sparseInsert l k v) k = some v := by
  induction l with
  | nil => simp [sparseInsert, sparseFind?]
  | cons e t ih =>
    simp only [sparseInsert]
    split
    · simp [sparseFind?]
    · split
      · simp [sparseFind?]
      · simp_all [sparseFind?]

theorem sparseFind_insert_other (l : Sparse α) {k j : Nat} (v : α) (h : j ≠ k) :
    sparseFind? (sparseInsert l k v) j = sparseFind? l j := by
  induction l with
  | nil => simp [sparseInsert, sparseFind?, h]
  | cons e t ih =>
    simp only [sparseInsert]
    split
    · simp [sparseFind?, h]
    · split
      · simp_all [sparseFind?]
      · simp [sparseFind?, ih]

theorem sparseFind_erase_same (l : Sparse α) (k : Nat) : sparseFind? (sparseErase l k) k = none := by
  induction l with
  | nil => rfl
  | cons e t ih =>
    by_cases h : e.1 = k
    · simpa [sparseErase, h] using ih
    · have h' : k ≠ e.1 := fun x => h x.symm
      simpa [sparseErase, sparseFind?, h, h'] using ih

theorem sparseFind_erase_other (l : Sparse α) {k j : Nat} (h : j ≠ k) :
    sparseFind? (sparseErase l k) j = sparseFind? l j := by
  induction l with
  | nil => rfl
  | cons e t ih =>
    by_cases h1 : e.1 = k
    · have h2 : j ≠ e.1 := fun x => h (x.trans h1)
      simpa [sparseErase, sparseFind?, h1, h] using ih
    · by_cases h3 : j = e.1
      · simp [sparseErase, sparseFind?, h1, h3]
      · simpa [sparseErase, sparseFind?, h1, h3] using ih

variable [DecidableEq α]

@[simp] theorem tableGet_set_same (d : α) (t : Sparse α) (k : Nat) (v : α) : tableGet d (tableSet d t k v) k = v := by
  unfold tableGet tableSet
  split
  · next h => simp [sparseFind_erase_same, h]
  · simp [sparseFind_insert_same]

theorem tableGet_set_other (d : α) (t : Sparse α) {k j : Nat} (v : α) (h : j ≠ k) :
    tableGet d (tableSet d t k v) j = tableGet d t j := by
  unfold tableGet tableSet
  split
  · simp [sparseFind_erase_other t h]
  · simp [sparseFind_insert_other t v h]

theorem tableGet_modify_of_not_mem (d : α) (t : Sparse α) {keys : List Nat} (f : α → α) {k : Nat} (h : k ∉ keys) :
    tableGet d (tableModify d t keys f) k = tableGet d t k := by
  induction keys generalizing t with
  | nil => rfl
  | cons j js ih =>
    simp only [List.mem_cons, not_or] at h
    exact (ih _ h.2).trans (tableGet_set_other d t _ h.1)

theorem tableGet_modify_of_mem (d : α) (t : Sparse α) {keys : List Nat} (f : α → α) (hf : ∀ a, f (f a) = f a) {k : Nat}
    (h : k ∈ keys) : tableGet d (tableModify d t keys f) k = f (tableGet d t k) := by
  induction keys generalizing t with
  | nil => simp at h
  | cons j js ih =>
    show tableGet d (tableModify d (tableSet d t j (f (tableGet d t j))) js f) k = _
    by_cases hj : k ∈ js
    · rw [ih _ hj]
      by_cases e : k = j
      · subst e; simp [hf]
      · rw [tableGet_set_other d t _ e]
    · have e : k = j := by simpa [hj] using h
      subst e
      rw [tableGet_modify_of_not_mem d _ f hj, tableGet_set_same]

/-! ## The canonical form -/

omit [DecidableEq α] in
theorem keysRising_cons {e : Nat × α} {l : Sparse α} :
    keysRising (e :: l) = true ↔ (∀ x ∈ l, e.1 < x.1) ∧ keysRising l = true := by
  induction l generalizing e with
  | nil => simp [keysRising]
  | cons b t ih =>
    simp only [keysRising, Bool.and_eq_true, decide_eq_true_eq, List.mem_cons, forall_eq_or_imp]
    constructor
    · rintro ⟨h, hb⟩
      exact ⟨⟨h, fun x hx => h.trans ((ih.mp hb).1 x hx)⟩, hb⟩
    · rintro ⟨⟨h, -⟩, hb⟩
      exact ⟨h, hb⟩

omit [DecidableEq α] in
theorem mem_sparseInsert {l : Sparse α} {k : Nat} {v : α} {x : Nat × α} (h : x ∈ sparseInsert l k v) :
    x = (k, v) ∨ x ∈ l := by
  induction l with
  | nil => simpa [sparseInsert] using h
  | cons e t ih =>
    simp only [sparseInsert] at h
    split at h
    · simpa using h
    · split at h
      · rcases List.mem_cons.mp h with h | h
        · exact .inl h
        · exact .inr (List.mem_cons_of_mem _ h)
      · rcases List.mem_cons.mp h with h | h
        · exact .inr (h ▸ List.mem_cons_self)
        · exact (ih h).imp_right (List.mem_cons_of_mem _)

omit [DecidableEq α] in
theorem keysRising_insert {l : Sparse α} (h : keysRising l = true) (k : Nat) (v : α) :
    keysRising (sparseInsert l k v) = true := by
  induction l with
  | nil => rfl
  | cons e t ih =>
    obtain ⟨h1, h2⟩ := keysRising_cons.mp h
    simp only [sparseInsert]
    split
    · next hk =>
      exact keysRising_cons.mpr ⟨fun x hx => by
        rcases List.mem_cons.mp hx with rfl | hx
        · exact hk
        · exact hk.trans (h1 x hx), h⟩
    · split
      · next hk => subst hk; exact keysRising_cons.mpr ⟨h1, h2⟩
      · refine keysRising_cons.mpr ⟨fun x hx => ?_, ih h2⟩
        rcases mem_sparseInsert hx with rfl | hx
        · dsimp only; omega
        · exact h1 x hx

omit [DecidableEq α] in
theorem keysRising_filter {l : Sparse α} (h : keysRising l = true) (p : Nat × α → Bool) :
    keysRising (l.filter p) = true := by
  induction l with
  | nil => rfl
  | cons e t ih =>
    obtain ⟨h1, h2⟩ := keysRising_cons.mp h
    by_cases hp : p e = true
    · rw [List.filter_cons_of_pos hp]
      exact keysRising_cons.mpr ⟨fun x hx => h1 x (List.mem_filter.mp hx).1, ih h2⟩
    · rw [List.filter_cons_of_neg hp]
      exact ih h2

theorem tableWf_set {d : α} {t : Sparse α} (h : tableWf d t = true) (k : Nat) (v : α) :
    tableWf d (tableSet d t k v) = true := by
  simp only [tableWf, Bool.and_eq_true, List.all_eq_true, decide_eq_true_eq] at h ⊢
  unfold tableSet
  split
  · exact ⟨keysRising_filter h.1 _, fun x hx => h.2 x (List.mem_filter.mp hx).1⟩
  · next hv =>
    refine ⟨keysRising_insert h.1 k v, fun x hx => ?_⟩
    rcases mem_sparseInsert hx with rfl | hx
    · exact hv
    · exact h.2 x hx

theorem tableWf_modify {d : α} {t : Sparse α} (h : tableWf d t = true) (keys : List Nat) (f : α → α) :
    tableWf d (tableModify d t keys f) = true := by
  induction keys generalizing t with
  | nil => exact h
  | cons k ks ih => exact ih (tableWf_set h k _)

/-- A property of every listed record survives a write of a record that has it. -/
theorem all_tableSet {d : α} {t : Sparse α} {p : α → Bool} (h : t.all (fun e => p e.2) = true) {v : α}
    (hv : p v = true) (k : Nat) : (tableSet d t k v).all (fun e => p e.2) = true := by
  simp only [List.all_eq_true] at h ⊢
  unfold tableSet
  split
  · exact fun x hx => h x (List.mem_filter.mp hx).1
  · intro x hx
    rcases mem_sparseInsert hx with rfl | hx
    · exact hv
    · exact h x hx

omit [DecidableEq α] in
theorem sparseFind_mem {l : Sparse α} {k : Nat} {v : α} (h : sparseFind? l k = some v) : (k, v) ∈ l := by
  induction l with
  | nil => simp [sparseFind?] at h
  | cons e t ih =>
    simp only [sparseFind?] at h
    split at h
    · next hk => cases h; subst hk; exact List.mem_cons_self
    · exact List.mem_cons_of_mem _ (ih h)

omit [DecidableEq α] in
/-- What a table holds under a key has every property its listed records and its reset value have. -/
theorem tableGet_all {d : α} {t : Sparse α} {p : α → Bool} (h : t.all (fun e => p e.2) = true) (hd : p d = true)
    (k : Nat) : p (tableGet d t k) = true := by
  unfold tableGet
  cases hk : sparseFind? t k with
  | none => simpa using hd
  | some v => simpa using (List.all_eq_true.mp h) _ (sparseFind_mem hk)

theorem all_tableModify {d : α} {t : Sparse α} {p : α → Bool} (h : t.all (fun e => p e.2) = true) (hd : p d = true)
    {f : α → α} (hf : ∀ a, p a = true → p (f a) = true) (keys : List Nat) :
    (tableModify d t keys f).all (fun e => p e.2) = true := by
  induction keys generalizing t with
  | nil => exact h
  | cons k ks ih => exact ih (all_tableSet h (hf _ (tableGet_all h hd k)) k)

end Sys2Proof.Machine
end

