-- ==== Sys2Proof/Laws/State.lean ====
section
/-! SUPPORT. What each update of the state leaves alone, one lemma per field, and reading back an engine or a slot. -/

namespace Sys2Proof.Machine

/-! ## setEngine -/

@[simp] theorem setEngine_params (s : State) (e : BitVec 5) (v : Engine) : (s.setEngine e v).params = s.params := rfl
@[simp] theorem setEngine_slots (s : State) (e : BitVec 5) (v : Engine) : (s.setEngine e v).slots = s.slots := rfl
@[simp] theorem setEngine_mem (s : State) (e : BitVec 5) (v : Engine) : (s.setEngine e v).mem = s.mem := rfl
@[simp] theorem setEngine_warn (s : State) (e : BitVec 5) (v : Engine) : (s.setEngine e v).warn = s.warn := rfl
@[simp] theorem setEngine_warnOverflow (s : State) (e : BitVec 5) (v : Engine) : (s.setEngine e v).warnOverflow = s.warnOverflow := rfl
@[simp] theorem setEngine_cur (s : State) (e : BitVec 5) (v : Engine) : (s.setEngine e v).cur = s.cur := rfl
@[simp] theorem setEngine_agenda (s : State) (e : BitVec 5) (v : Engine) : (s.setEngine e v).agenda = s.agenda := rfl
@[simp] theorem setEngine_ticks (s : State) (e : BitVec 5) (v : Engine) : (s.setEngine e v).ticks = s.ticks := rfl
@[simp] theorem setEngine_draws (s : State) (e : BitVec 5) (v : Engine) : (s.setEngine e v).draws = s.draws := rfl
@[simp] theorem setEngine_reply (s : State) (e : BitVec 5) (v : Engine) : (s.setEngine e v).reply = s.reply := rfl

/-! ## setSlot -/

@[simp] theorem setSlot_params (s : State) (n : BitVec 5) (v : Slot) : (s.setSlot n v).params = s.params := rfl
@[simp] theorem setSlot_engines (s : State) (n : BitVec 5) (v : Slot) : (s.setSlot n v).engines = s.engines := rfl
@[simp] theorem setSlot_mem (s : State) (n : BitVec 5) (v : Slot) : (s.setSlot n v).mem = s.mem := rfl
@[simp] theorem setSlot_warn (s : State) (n : BitVec 5) (v : Slot) : (s.setSlot n v).warn = s.warn := rfl
@[simp] theorem setSlot_warnOverflow (s : State) (n : BitVec 5) (v : Slot) : (s.setSlot n v).warnOverflow = s.warnOverflow := rfl
@[simp] theorem setSlot_cur (s : State) (n : BitVec 5) (v : Slot) : (s.setSlot n v).cur = s.cur := rfl
@[simp] theorem setSlot_agenda (s : State) (n : BitVec 5) (v : Slot) : (s.setSlot n v).agenda = s.agenda := rfl
@[simp] theorem setSlot_ticks (s : State) (n : BitVec 5) (v : Slot) : (s.setSlot n v).ticks = s.ticks := rfl
@[simp] theorem setSlot_draws (s : State) (n : BitVec 5) (v : Slot) : (s.setSlot n v).draws = s.draws := rfl
@[simp] theorem setSlot_reply (s : State) (n : BitVec 5) (v : Slot) : (s.setSlot n v).reply = s.reply := rfl

/-! ## setSamples -/

@[simp] theorem setSamples_params (s : State) (ws : List (Nat × Int)) : (s.setSamples ws).params = s.params := rfl
@[simp] theorem setSamples_engines (s : State) (ws : List (Nat × Int)) : (s.setSamples ws).engines = s.engines := rfl
@[simp] theorem setSamples_slots (s : State) (ws : List (Nat × Int)) : (s.setSamples ws).slots = s.slots := rfl
@[simp] theorem setSamples_warn (s : State) (ws : List (Nat × Int)) : (s.setSamples ws).warn = s.warn := rfl
@[simp] theorem setSamples_warnOverflow (s : State) (ws : List (Nat × Int)) : (s.setSamples ws).warnOverflow = s.warnOverflow := rfl
@[simp] theorem setSamples_cur (s : State) (ws : List (Nat × Int)) : (s.setSamples ws).cur = s.cur := rfl
@[simp] theorem setSamples_agenda (s : State) (ws : List (Nat × Int)) : (s.setSamples ws).agenda = s.agenda := rfl
@[simp] theorem setSamples_ticks (s : State) (ws : List (Nat × Int)) : (s.setSamples ws).ticks = s.ticks := rfl
@[simp] theorem setSamples_draws (s : State) (ws : List (Nat × Int)) : (s.setSamples ws).draws = s.draws := rfl
@[simp] theorem setSamples_reply (s : State) (ws : List (Nat × Int)) : (s.setSamples ws).reply = s.reply := rfl

/-! ## drawn -/

@[simp] theorem drawn_params (s : State) : (s.drawn).params = s.params := rfl
@[simp] theorem drawn_engines (s : State) : (s.drawn).engines = s.engines := rfl
@[simp] theorem drawn_slots (s : State) : (s.drawn).slots = s.slots := rfl
@[simp] theorem drawn_mem (s : State) : (s.drawn).mem = s.mem := rfl
@[simp] theorem drawn_warn (s : State) : (s.drawn).warn = s.warn := rfl
@[simp] theorem drawn_warnOverflow (s : State) : (s.drawn).warnOverflow = s.warnOverflow := rfl
@[simp] theorem drawn_cur (s : State) : (s.drawn).cur = s.cur := rfl
@[simp] theorem drawn_agenda (s : State) : (s.drawn).agenda = s.agenda := rfl
@[simp] theorem drawn_ticks (s : State) : (s.drawn).ticks = s.ticks := rfl
@[simp] theorem drawn_reply (s : State) : (s.drawn).reply = s.reply := rfl

/-! ## replied -/

@[simp] theorem replied_params (s : State) (r : HostReply) : (s.replied r).params = s.params := rfl
@[simp] theorem replied_engines (s : State) (r : HostReply) : (s.replied r).engines = s.engines := rfl
@[simp] theorem replied_slots (s : State) (r : HostReply) : (s.replied r).slots = s.slots := rfl
@[simp] theorem replied_mem (s : State) (r : HostReply) : (s.replied r).mem = s.mem := rfl
@[simp] theorem replied_warn (s : State) (r : HostReply) : (s.replied r).warn = s.warn := rfl
@[simp] theorem replied_warnOverflow (s : State) (r : HostReply) : (s.replied r).warnOverflow = s.warnOverflow := rfl
@[simp] theorem replied_cur (s : State) (r : HostReply) : (s.replied r).cur = s.cur := rfl
@[simp] theorem replied_agenda (s : State) (r : HostReply) : (s.replied r).agenda = s.agenda := rfl
@[simp] theorem replied_ticks (s : State) (r : HostReply) : (s.replied r).ticks = s.ticks := rfl
@[simp] theorem replied_draws (s : State) (r : HostReply) : (s.replied r).draws = s.draws := rfl

/-! ## clearCoef -/

@[simp] theorem clearCoef_params (s : State) : (s.clearCoef).params = s.params := rfl
@[simp] theorem clearCoef_slots (s : State) : (s.clearCoef).slots = s.slots := rfl
@[simp] theorem clearCoef_mem (s : State) : (s.clearCoef).mem = s.mem := rfl
@[simp] theorem clearCoef_warn (s : State) : (s.clearCoef).warn = s.warn := rfl
@[simp] theorem clearCoef_warnOverflow (s : State) : (s.clearCoef).warnOverflow = s.warnOverflow := rfl
@[simp] theorem clearCoef_cur (s : State) : (s.clearCoef).cur = s.cur := rfl
@[simp] theorem clearCoef_agenda (s : State) : (s.clearCoef).agenda = s.agenda := rfl
@[simp] theorem clearCoef_ticks (s : State) : (s.clearCoef).ticks = s.ticks := rfl
@[simp] theorem clearCoef_draws (s : State) : (s.clearCoef).draws = s.draws := rfl
@[simp] theorem clearCoef_reply (s : State) : (s.clearCoef).reply = s.reply := rfl

/-! ## complete -/

@[simp] theorem complete_params (s : State) (len : Nat) : (complete len s).params = s.params := rfl
@[simp] theorem complete_slots (s : State) (len : Nat) : (complete len s).slots = s.slots := rfl
@[simp] theorem complete_mem (s : State) (len : Nat) : (complete len s).mem = s.mem := rfl
@[simp] theorem complete_warn (s : State) (len : Nat) : (complete len s).warn = s.warn := rfl
@[simp] theorem complete_warnOverflow (s : State) (len : Nat) : (complete len s).warnOverflow = s.warnOverflow := rfl
@[simp] theorem complete_cur (s : State) (len : Nat) : (complete len s).cur = s.cur := rfl
@[simp] theorem complete_agenda (s : State) (len : Nat) : (complete len s).agenda = s.agenda := rfl
@[simp] theorem complete_ticks (s : State) (len : Nat) : (complete len s).ticks = s.ticks := rfl
@[simp] theorem complete_draws (s : State) (len : Nat) : (complete len s).draws = s.draws := rfl
@[simp] theorem complete_reply (s : State) (len : Nat) : (complete len s).reply = s.reply := rfl

/-! ## raise -/

@[simp] theorem raise_params (s : State) (code : FaultCode) : (raise code s).params = s.params := rfl
@[simp] theorem raise_slots (s : State) (code : FaultCode) : (raise code s).slots = s.slots := rfl
@[simp] theorem raise_mem (s : State) (code : FaultCode) : (raise code s).mem = s.mem := rfl
@[simp] theorem raise_warn (s : State) (code : FaultCode) : (raise code s).warn = s.warn := rfl
@[simp] theorem raise_warnOverflow (s : State) (code : FaultCode) : (raise code s).warnOverflow = s.warnOverflow := rfl
@[simp] theorem raise_cur (s : State) (code : FaultCode) : (raise code s).cur = s.cur := rfl
@[simp] theorem raise_agenda (s : State) (code : FaultCode) : (raise code s).agenda = s.agenda := rfl
@[simp] theorem raise_ticks (s : State) (code : FaultCode) : (raise code s).ticks = s.ticks := rfl
@[simp] theorem raise_draws (s : State) (code : FaultCode) : (raise code s).draws = s.draws := rfl
@[simp] theorem raise_reply (s : State) (code : FaultCode) : (raise code s).reply = s.reply := rfl

/-! ## warning -/

@[simp] theorem warning_params (s : State) (w : WarningCode) (n : BitVec 5) : (warning w n s).params = s.params := rfl
@[simp] theorem warning_engines (s : State) (w : WarningCode) (n : BitVec 5) : (warning w n s).engines = s.engines := rfl
@[simp] theorem warning_mem (s : State) (w : WarningCode) (n : BitVec 5) : (warning w n s).mem = s.mem := rfl
@[simp] theorem warning_cur (s : State) (w : WarningCode) (n : BitVec 5) : (warning w n s).cur = s.cur := rfl
@[simp] theorem warning_agenda (s : State) (w : WarningCode) (n : BitVec 5) : (warning w n s).agenda = s.agenda := rfl
@[simp] theorem warning_ticks (s : State) (w : WarningCode) (n : BitVec 5) : (warning w n s).ticks = s.ticks := rfl
@[simp] theorem warning_draws (s : State) (w : WarningCode) (n : BitVec 5) : (warning w n s).draws = s.draws := rfl
@[simp] theorem warning_reply (s : State) (w : WarningCode) (n : BitVec 5) : (warning w n s).reply = s.reply := rfl

/-! ## resetAll -/

@[simp] theorem resetAll_params (s : State) : (resetAll s).params = s.params := rfl
@[simp] theorem resetAll_cur (s : State) : (resetAll s).cur = s.cur := rfl
@[simp] theorem resetAll_agenda (s : State) : (resetAll s).agenda = s.agenda := rfl
@[simp] theorem resetAll_ticks (s : State) : (resetAll s).ticks = s.ticks := rfl
@[simp] theorem resetAll_draws (s : State) : (resetAll s).draws = s.draws := rfl
@[simp] theorem resetAll_reply (s : State) : (resetAll s).reply = s.reply := rfl

/-! ## Reading back -/

@[simp] theorem engine_setEngine_same (s : State) (e : BitVec 5) (v : Engine) : (s.setEngine e v).engine e = v := by
  simp [State.engine, State.setEngine]

theorem engine_setEngine_other (s : State) {e e' : BitVec 5} (v : Engine) (h : e' ≠ e) :
    (s.setEngine e v).engine e' = s.engine e' := by
  have h' : e.toNat ≠ e'.toNat := fun k => h (BitVec.eq_of_toNat_eq k.symm)
  simp [State.engine, State.setEngine, h']

@[simp] theorem slot_setSlot_same (s : State) (n : BitVec 5) (v : Slot) : (s.setSlot n v).slot n = v := by
  simp [State.slot, State.setSlot]

theorem slot_setSlot_other (s : State) {n n' : BitVec 5} (v : Slot) (h : n' ≠ n) :
    (s.setSlot n v).slot n' = s.slot n' := by
  have h' : n.toNat ≠ n'.toNat := fun k => h (BitVec.eq_of_toNat_eq k.symm)
  simp [State.slot, State.setSlot, h']

@[simp] theorem slot_setEngine (s : State) (e : BitVec 5) (v : Engine) (n : BitVec 5) :
    (s.setEngine e v).slot n = s.slot n := rfl

@[simp] theorem engine_setSlot (s : State) (n : BitVec 5) (v : Slot) (e : BitVec 5) :
    (s.setSlot n v).engine e = s.engine e := rfl

@[simp] theorem me_setSlot (s : State) (n : BitVec 5) (v : Slot) : (s.setSlot n v).me = s.me := rfl

@[simp] theorem me_setEngine (s : State) (v : Engine) : (s.setEngine s.cur v).me = v := by
  simp [State.me]

@[simp] theorem slot_setSamples (s : State) (ws : List (Nat × Int)) (n : BitVec 5) :
    (s.setSamples ws).slot n = s.slot n := rfl

@[simp] theorem engine_setSamples (s : State) (ws : List (Nat × Int)) (e : BitVec 5) :
    (s.setSamples ws).engine e = s.engine e := rfl

@[simp] theorem me_setSamples (s : State) (ws : List (Nat × Int)) : (s.setSamples ws).me = s.me := rfl

@[simp] theorem slot_drawn (s : State) (n : BitVec 5) : s.drawn.slot n = s.slot n := rfl

@[simp] theorem engine_drawn (s : State) (e : BitVec 5) : s.drawn.engine e = s.engine e := rfl

@[simp] theorem me_drawn (s : State) : s.drawn.me = s.me := rfl

@[simp] theorem slot_replied (s : State) (r : HostReply) (n : BitVec 5) : (s.replied r).slot n = s.slot n := rfl

@[simp] theorem engine_replied (s : State) (r : HostReply) (e : BitVec 5) : (s.replied r).engine e = s.engine e := rfl

@[simp] theorem slot_clearCoef (s : State) (n : BitVec 5) : s.clearCoef.slot n = s.slot n := rfl

@[simp] theorem me_clearCoef (s : State) : s.clearCoef.me = { s.me with coef := [] } := by
  simp [State.clearCoef]

@[simp] theorem slot_complete (s : State) (len : Nat) (n : BitVec 5) : (complete len s).slot n = s.slot n := rfl

@[simp] theorem me_complete (s : State) (len : Nat) :
    (complete len s).me = { s.me with queue := s.me.queue.drop len, cmdCount := s.me.cmdCount + 1 } := by
  simp [complete]

theorem engine_complete_other (s : State) (len : Nat) {e : BitVec 5} (h : e ≠ s.cur) :
    (complete len s).engine e = s.engine e := engine_setEngine_other s _ h

@[simp] theorem slot_raise (s : State) (code : FaultCode) (n : BitVec 5) : (raise code s).slot n = s.slot n := rfl

@[simp] theorem me_raise (s : State) (code : FaultCode) :
    (raise code s).me = { s.me with errCode := code.code, errCmd := s.me.cmdCount, faulted := true } := by
  simp [raise]

theorem engine_raise_other (s : State) (code : FaultCode) {e : BitVec 5} (h : e ≠ s.cur) :
    (raise code s).engine e = s.engine e := engine_setEngine_other s _ h

@[simp] theorem slot_warning_same (s : State) (w : WarningCode) (n : BitVec 5) :
    (warning w n s).slot n = { s.slot n with integrity := .decodingErrors } := by
  simp [warning, State.slot, State.setSlot]

theorem slot_warning_other (s : State) (w : WarningCode) {n n' : BitVec 5} (h : n' ≠ n) :
    (warning w n s).slot n' = s.slot n' := slot_setSlot_other s _ h

@[simp] theorem engine_warning (s : State) (w : WarningCode) (n e : BitVec 5) :
    (warning w n s).engine e = s.engine e := rfl

@[simp] theorem me_warning (s : State) (w : WarningCode) (n : BitVec 5) : (warning w n s).me = s.me := rfl

end Sys2Proof.Machine
end

