-- ==== Sys2Proof/Laws/Ops.lean ====
section
/-! SUPPORT. What the shared operations do: the memory of samples, how a command ends, and the shared checks. -/

namespace Sys2Proof.Machine

/-! ## Bytes and samples -/

@[simp] theorem memByte_setByte_same (m : List Host.Cell) (a : Nat) (b : Byte) :
    memByte? (memSetByte m a b) a = some b := sparseFind_insert_same m a b

theorem memByte_setByte_other (m : List Host.Cell) {a a' : Nat} (b : Byte) (h : a' ≠ a) :
    memByte? (memSetByte m a b) a' = memByte? m a' := sparseFind_insert_other m b h

theorem memByte_setSample_other (m : List Host.Cell) {a a' : Nat} (v : BitVec 16) (h : a' ≠ a) (h1 : a' ≠ a + 1) :
    memByte? (memSetSample m a v) a' = memByte? m a' := by
  rw [memSetSample, memByte_setByte_other _ _ h1, memByte_setByte_other _ _ h]

theorem halves_append (v : BitVec 16) : v.extractLsb' 8 8 ++ v.extractLsb' 0 8 = v := by
  apply BitVec.eq_of_getLsbD_eq
  intro i hi
  simp only [BitVec.getLsbD_append, BitVec.getLsbD_extractLsb']
  by_cases h : i < 8
  · simp [h]
  · simp [h, show i - 8 < 8 by omega, show 8 + (i - 8) = i by omega]

@[simp] theorem memSample_setSample_same (m : List Host.Cell) (a : Nat) (v : BitVec 16) :
    memSample? (memSetSample m a v) a = some v := by
  have h0 : memByte? (memSetSample m a v) a = some (v.extractLsb' 0 8) := by
    rw [memSetSample, memByte_setByte_other _ _ (by omega), memByte_setByte_same]
  have h1 : memByte? (memSetSample m a v) (a + 1) = some (v.extractLsb' 8 8) := by
    rw [memSetSample, memByte_setByte_same]
  simp only [memSample?, h0, h1, halves_append]

/-- Samples lie at even addresses, so two of them share no byte. -/
theorem memSample_setSample_other (m : List Host.Cell) {a a' : Nat} (v : BitVec 16) (ha : a % 2 = 0)
    (ha' : a' % 2 = 0) (h : a' ≠ a) : memSample? (memSetSample m a v) a' = memSample? m a' := by
  rw [memSample?, memByte_setSample_other m v h (by omega), memByte_setSample_other m v (by omega) (by omega)]
  rfl

theorem memByte_setSamples_other (m : List Host.Cell) (ws : List (Nat × Int)) {a : Nat}
    (h : ∀ w ∈ ws, a ≠ w.1 ∧ a ≠ w.1 + 1) : memByte? (memSetSamples m ws) a = memByte? m a := by
  induction ws generalizing m with
  | nil => rfl
  | cons w t ih =>
    show memByte? (memSetSamples (memSetSample m w.1 _) t) a = _
    rw [ih _ fun x hx => h x (List.mem_cons_of_mem _ hx)]
    exact memByte_setSample_other m _ (h w List.mem_cons_self).1 (h w List.mem_cons_self).2

/-- After several writes a sample holds what the last of them put there. -/
theorem memSample_setSamples_mem (m : List Host.Cell) (ws : List (Nat × Int)) {a : Nat} {v : Int}
    (even : ∀ w ∈ ws, w.1 % 2 = 0) (mem : (a, v) ∈ ws) (uniq : ∀ w ∈ ws, w.1 = a → w.2 = v) :
    memSample? (memSetSamples m ws) a = some (BitVec.ofInt 16 v) := by
  have ha : a % 2 = 0 := even _ mem
  suffices H : ∀ (m : List Host.Cell) (ws : List (Nat × Int)), (∀ w ∈ ws, w.1 % 2 = 0) →
      (∀ w ∈ ws, w.1 = a → w.2 = v) → ((a, v) ∈ ws ∨ memSample? m a = some (BitVec.ofInt 16 v)) →
      memSample? (memSetSamples m ws) a = some (BitVec.ofInt 16 v) from H m ws even uniq (.inl mem)
  intro m ws
  induction ws generalizing m with
  | nil => intro _ _ h; simpa [memSetSamples] using h
  | cons w t ih =>
    intro ev un h
    show memSample? (memSetSamples (memSetSample m w.1 _) t) a = _
    refine ih _ (fun x hx => ev x (List.mem_cons_of_mem _ hx)) (fun x hx => un x (List.mem_cons_of_mem _ hx)) ?_
    by_cases hw : w.1 = a
    · right
      rw [hw, un w List.mem_cons_self hw, memSample_setSample_same]
    · rcases h with h | h
      · rcases List.mem_cons.mp h with h | h
        · exact absurd (congrArg Prod.fst h).symm hw
        · exact .inl h
      · right
        rw [memSample_setSample_other m _ (ev w List.mem_cons_self) ha (fun x => hw x.symm), h]

theorem sampleAddr_even (n : BitVec 5) (set : PlaneSet) (c x y : Nat) : sampleAddr n set c x y % 2 = 0 := by
  simp only [sampleAddr, slotSpan]; omega

theorem sampleAddr_slot (n : BitVec 5) (set : PlaneSet) {c x y : Nat} (hc : c < 4) (hx : x < 65536) (hy : y < 65536) :
    sampleAddr n set c x y / slotSpan = n.toNat := by
  cases set <;> simp only [sampleAddr, slotSpan, PlaneSet.bit] <;> omega

theorem sampleAddr_inj {n n' : BitVec 5} {set set' : PlaneSet} {c c' x x' y y' : Nat} (hc : c < 4) (hc' : c' < 4)
    (hx : x < 65536) (hx' : x' < 65536) (hy : y < 65536) (hy' : y' < 65536)
    (h : sampleAddr n set c x y = sampleAddr n' set' c' x' y') :
    n = n' ∧ set = set' ∧ c = c' ∧ x = x' ∧ y = y' := by
  have hn : n.toNat = n'.toNat := by
    rw [← sampleAddr_slot n set hc hx hy, ← sampleAddr_slot n' set' hc' hx' hy', h]
  refine ⟨BitVec.eq_of_toNat_eq hn, ?_⟩
  cases set <;> cases set' <;> simp only [sampleAddr, slotSpan, PlaneSet.bit, reduceCtorEq, true_and, false_and] at h ⊢ <;>
    omega

theorem memByte_forget (m : List Host.Cell) (n : BitVec 5) (a : Nat) :
    memByte? (memForget m n) a = if a / slotSpan = n.toNat then none else memByte? m a := by
  induction m with
  | nil => simp [memForget, memByte?, sparseFind?]
  | cons e t ih =>
    by_cases h1 : e.1 / slotSpan = n.toNat
    · rw [show memForget (e :: t) n = memForget t n by simp [memForget, h1], ih]
      by_cases h2 : a / slotSpan = n.toNat
      · simp [h2]
      · have h3 : a ≠ e.1 := fun x => h2 (x ▸ h1)
        simp [h2, memByte?, sparseFind?, h3]
    · rw [show memForget (e :: t) n = e :: memForget t n by simp [memForget, h1]]
      by_cases h3 : a = e.1
      · subst h3; simp [memByte?, sparseFind?, h1]
      · simpa [memByte?, sparseFind?, h3] using ih

/-! ## Unspecified bytes of the host window -/

/-- The bytes of an unwritten sample are those of a value of its range (I2). -/
theorem freeWindowByte_lt (s : State) (phys bd i : Nat) : (s.freeWindowByte phys bd i).toNat < 2 ^ (bd - 8 * i) := by
  rw [State.freeWindowByte, BitVec.toNat_ofNat]
  exact Nat.lt_of_le_of_lt (Nat.mod_le _ _) (Nat.mod_lt _ (Nat.two_pow_pos _))

/-- A whole byte of the sample is free: nothing is taken from the free value. -/
theorem freeWindowByte_whole (s : State) {phys bd i : Nat} (h : 8 * i + 8 ≤ bd) :
    s.freeWindowByte phys bd i = Config.freeByte s.draws phys := by
  have hp : 2 ^ 8 ≤ 2 ^ (bd - 8 * i) := Nat.pow_le_pow_right (by omega) (by omega)
  rw [State.freeWindowByte, Nat.mod_eq_of_lt (Nat.lt_of_lt_of_le (BitVec.isLt _) hp), BitVec.ofNat_toNat,
    BitVec.setWidth_eq]

/-! ## The canonical form of the memory -/

theorem memWf_setByte {m : List Host.Cell} (h : memWf m = true) (a : Nat) (b : Byte) :
    memWf (memSetByte m a b) = true := keysRising_insert h a b

theorem memWf_setSample {m : List Host.Cell} (h : memWf m = true) (a : Nat) (v : BitVec 16) :
    memWf (memSetSample m a v) = true := memWf_setByte (memWf_setByte h a _) (a + 1) _

theorem memWf_setSamples {m : List Host.Cell} (h : memWf m = true) (ws : List (Nat × Int)) :
    memWf (memSetSamples m ws) = true := by
  induction ws generalizing m with
  | nil => exact h
  | cons w t ih => exact ih (memWf_setSample h w.1 _)

theorem memWf_forget {m : List Host.Cell} (h : memWf m = true) (n : BitVec 5) : memWf (memForget m n) = true :=
  keysRising_filter h _

theorem memWf_hostSetByte {m : List Host.Cell} (h : memWf m = true) (s : State) (phys : Nat) (b : WindowByte)
    (v : Byte) : memWf (s.hostSetByte m phys b v) = true := by
  cases b with
  | padding => exact h
  | outside => exact h
  | sample n set c x y i =>
    simp only [State.hostSetByte]
    split
    · exact memWf_setSample h _ _
    · split
      · exact memWf_setByte h _ _
      · exact memWf_setByte (memWf_setByte h _ _) _ _

theorem memWf_reset (p : Params) : memWf (State.resetWith p).mem = true := rfl

/-- What a host write of one byte leaves alone (R53): everything but that byte, the second byte of a one-byte sample,
and the other byte of an unwritten sample. -/
theorem memByte_hostSetByte_other (s : State) (m : List Host.Cell) (phys : Nat) (b : WindowByte) (v : Byte) (p : Nat)
    (hi : ∀ n set c x y i, b = .sample n set c x y i → (s.slot n).cfg.bps c = 1 → i = 0)
    (h : ¬ ∃ n set c x y i, b = .sample n set c x y i ∧ (p = sampleAddr n set c x y + i ∨
      (p = sampleAddr n set c x y + (1 - i) ∧ ((s.slot n).cfg.bps c = 1 ∨ memByte? m p = none)))) :
    memByte? (s.hostSetByte m phys b v) p = memByte? m p := by
  cases b with
  | padding => rfl
  | outside => rfl
  | sample n set c x y i =>
    have h1 : p ≠ sampleAddr n set c x y + i := fun e => h ⟨n, set, c, x, y, i, rfl, .inl e⟩
    have h2 : (s.slot n).cfg.bps c = 1 ∨ memByte? m p = none → p ≠ sampleAddr n set c x y + (1 - i) :=
      fun e e' => h ⟨n, set, c, x, y, i, rfl, .inr ⟨e', e⟩⟩
    simp only [State.hostSetByte]
    split
    · rename_i hb
      obtain rfl := hi _ _ _ _ _ _ rfl hb
      exact memByte_setSample_other _ _ (by simpa using h1) (by simpa using h2 (.inl hb))
    · rw [memByte_setByte_other _ _ h1]
      split
      · rfl
      · rename_i hn
        rw [memByte_setByte_other]
        exact fun e => h2 (.inr (e ▸ hn)) e

/-! ## How a command ends -/

/-- A command that answers through `finish` completes with its effect, or faults and leaves the state as it was. -/
theorem finish_next {len : Nat} {s t : State} {r : Except FaultCode State} (h : finish len s r = .next t) :
    (∃ u, r = .ok u ∧ t = complete len u) ∨ ∃ code, r = .error code ∧ t = raise code s := by
  cases r with
  | ok u => exact .inl ⟨u, rfl, by simpa [finish] using h.symm⟩
  | error code => exact .inr ⟨code, rfl, by simpa [finish] using h.symm⟩

@[simp] theorem finish_ok (len : Nat) (s u : State) : finish len s (.ok u) = .next (complete len u) := rfl

@[simp] theorem finish_error (len : Nat) (s : State) (code : FaultCode) :
    finish len s (.error code) = .next (raise code s) := rfl

/-- A fault changes nothing but the executing engine's ERRCODE, ERRCMD and STATE (R230). -/
theorem raise_eq (code : FaultCode) (s : State) :
    raise code s = s.setEngine s.cur { s.me with errCode := code.code, errCmd := s.me.cmdCount, faulted := true } := rfl

/-- A warning keeps the queue within WARN_DEPTH (R233). -/
theorem warning_length (w : WarningCode) (n : BitVec 5) (s : State) (hd : 1 ≤ s.params.warnDepth)
    (h : s.warn.length ≤ s.params.warnDepth) : (warning w n s).warn.length ≤ s.params.warnDepth := by
  by_cases hf : s.params.warnDepth ≤ s.warn.length <;> simp [warning, hf] <;> omega

/-! ## The shared checks -/

theorem withSlot_ok {s t : State} {n : BitVec 5} {k : Slot → Except FaultCode State} :
    withSlot s n k = .ok t ↔ n.toNat < s.params.numSlots ∧ k (s.slot n) = .ok t := by
  unfold withSlot; split <;> simp_all

theorem withInFlight_ok {s t : State} {n : BitVec 5} {k : Slot → Except FaultCode State} :
    withInFlight s n k = .ok t ↔
      n.toNat < s.params.numSlots ∧ (s.slot n).inFlight = true ∧ k (s.slot n) = .ok t := by
  unfold withInFlight
  rw [withSlot_ok]
  split <;> simp_all

theorem withPlane_ok {s t : State} {n : BitVec 5} {c : BitVec 2} {k : Slot → Except FaultCode State} :
    withPlane s n c k = .ok t ↔
      componentOk c = true ∧ n.toNat < s.params.numSlots ∧ (s.slot n).inFlight = true ∧
        (s.slot n).cfg.planeExists c.toNat = true ∧ k (s.slot n) = .ok t := by
  unfold withPlane
  split
  · simp_all
  · rw [withInFlight_ok]
    split <;> simp_all

/-- The checks pass for a slot in flight. -/
theorem withInFlight_pass {s : State} {n : BitVec 5} {k : Slot → Except FaultCode State}
    (hn : n.toNat < s.params.numSlots) (hf : (s.slot n).inFlight = true) : withInFlight s n k = k (s.slot n) := by
  simp [withInFlight, withSlot, hn, hf]

/-- The checks pass for a plane of a slot in flight. -/
theorem withPlane_pass {s : State} {n : BitVec 5} {c : BitVec 2} {k : Slot → Except FaultCode State}
    (hc : componentOk c = true) (hn : n.toNat < s.params.numSlots) (hf : (s.slot n).inFlight = true)
    (hp : (s.slot n).cfg.planeExists c.toNat = true) : withPlane s n c k = k (s.slot n) := by
  simp [withPlane, hc, withInFlight_pass hn hf, hp]

/-- A slot at or above NUM_SLOTS is refused with code 8 (R63). -/
theorem withSlot_absent {s : State} {n : BitVec 5} {k : Slot → Except FaultCode State}
    (h : s.params.numSlots ≤ n.toNat) : withSlot s n k = .error .codedParameterOutOfRange := by
  simp [withSlot, Nat.not_lt.mpr h]

/-! ## Keys -/

theorem cellKey_inj {x x' y y' : Nat} (hx : x < 65536) (hx' : x' < 65536) (h : cellKey x y = cellKey x' y') :
    x = x' ∧ y = y' := by
  simp only [cellKey] at h; omega

theorem coefKey_inj {x x' y y' : Nat} (hx : x < 32) (hx' : x' < 32) (h : coefKey x y = coefKey x' y') :
    x = x' ∧ y = y' := by
  simp only [coefKey] at h; omega

theorem saoKey_inj {c c' x x' y y' : Nat} (hx : x < 65536) (hx' : x' < 65536) (hy : y < 65536) (hy' : y' < 65536)
    (h : saoKey c x y = saoKey c' x' y') : c = c' ∧ x = x' ∧ y = y' := by
  simp only [saoKey, cellKey] at h; omega

theorem scalingKey_inj {z z' m m' x x' y y' : Nat} (hm : m < 8) (hm' : m' < 8) (hx : x < 32) (hx' : x' < 32)
    (hy : y < 32) (hy' : y' < 32) (h : scalingKey z m x y = scalingKey z' m' x' y') :
    z = z' ∧ m = m' ∧ x = x' ∧ y = y' := by
  simp only [scalingKey] at h; omega

/-- The blocks of a rectangle are those whose samples lie in it. -/
theorem mem_blockKeys {x y w h bx by' : Nat} (hx : x % 4 = 0) (hy : y % 4 = 0) (hw : w % 4 = 0) (hh : h % 4 = 0)
    (hbx : bx < 65536) (hxw : x + w ≤ 65536) :
    blockKey bx by' ∈ blockKeys x y w h ↔ (x ≤ bx ∧ bx < x + w ∧ y ≤ by' ∧ by' < y + h) := by
  simp only [blockKeys, List.mem_flatMap, List.mem_map, List.mem_range, blockKey, cellKey]
  constructor
  · rintro ⟨j, hj, i, hi, e⟩
    omega
  · rintro ⟨h1, h2, h3, h4⟩
    exact ⟨(by' - y) / 4, by omega, (bx - x) / 4, by omega, by omega⟩

end Sys2Proof.Machine
end

