-- ==== Sys2Proof/Laws/Deblock.lean ====
section
/-! SUPPORT. Boundary strength, thresholds and filtered segments: the functions of Machine/Deblock.lean are what the
rules say in the words of Safety.lean. -/

namespace Sys2Proof.Machine

theorem far_eq_false (a b : Mv) :
    a.far b = false ↔ absI (a.x.toInt - b.x.toInt) < 4 ∧ absI (a.y.toInt - b.y.toInt) < 4 := by
  simp [Mv.far]

/-- Two lists agree when they name the same picture, or none, with near vectors (R174). -/
theorem listsAgree_iff (u u' : Bool) (r r' : BitVec 5) (v v' : Mv) :
    ListsAgree u r v u' r' v' ↔ refOf u r = refOf u' r' ∧ (mvOf u v).far (mvOf u' v') = false := by
  cases u <;> cases u' <;> simp [ListsAgree, refOf, mvOf, far_eq_false]
  decide

theorem motionBs_le_one (p q : MetaRec) : motionBs p q ≤ 1 := by
  have h : ∀ b : Bool, b.toNat ≤ 1 := by decide
  simp only [motionBs]
  split_ifs <;> first | exact h _ | exact Nat.le_refl _

/-- `MotionBs` is 0 exactly when the lists agree in one pairing (R174). -/
theorem motionBs_eq_zero_iff (p q : MetaRec) : motionBs p q = 0 ↔ MotionAgrees p q := by
  simp only [motionBs, MotionAgrees, listsAgree_iff]
  generalize refOf p.predFlagL0 p.refSlotL0 = p0
  generalize refOf p.predFlagL1 p.refSlotL1 = p1
  generalize refOf q.predFlagL0 q.refSlotL0 = q0
  generalize refOf q.predFlagL1 q.refSlotL1 = q1
  generalize Mv.far _ _ = a
  generalize Mv.far _ _ = b
  generalize Mv.far _ _ = c
  generalize Mv.far _ _ = d
  by_cases h1 : p0 = q0 <;> by_cases h2 : p1 = q1 <;> by_cases h3 : p0 = q1 <;> by_cases h4 : p1 = q0 <;>
    cases a <;> cases b <;> cases c <;> cases d <;> simp_all

/-- The model's bS is the one strength R173 allows. -/
theorem strengthIs_iff (te : Bool) (p q : MetaRec) (b : Nat) :
    StrengthIs te p q b ↔ b = boundaryStrength te p q := by
  unfold StrengthIs boundaryStrength
  have h := motionBs_le_one p q
  have h0 := motionBs_eq_zero_iff p q
  simp only [Bool.or_eq_true, Bool.and_eq_true]
  split_ifs
  · rfl
  · rfl
  · rw [← h0]; omega

/-- A segment of the model is one the rules filter (R170 to R173). -/
theorem segmentAt_iff (sl : Slot) (dir : Bool) (x y : Nat) (mP mQ : MetaRec) (sq : SliceRec) (b : Nat) :
    SegmentAt sl dir x y mP mQ sq b ↔ lumaSegment sl dir x y = some ⟨mP, mQ, sq, b⟩ := by
  constructor
  · rintro ⟨h1, rfl, rfl, rfl, h2, h3, h4, h5, h6, h7, h8⟩
    rw [strengthIs_iff] at h8
    subst h8
    cases dir <;> simp_all [lumaSegment, isEdge, isTransformEdge, filterEdge] <;> grind
  · intro h
    cases dir <;> simp only [lumaSegment, Bool.false_eq_true, if_true, if_false] at h <;> split at h <;>
      first | cases h; done | skip
    all_goals
      rename_i hc
      obtain ⟨rfl, rfl, rfl, rfl⟩ := by simpa using h
      simp [isEdge, filterEdge] at hc
      exact ⟨by simp; omega, by simp, rfl, rfl, by simp; grind, by simp; grind, by grind, by simp; grind, by simp; grind,
        by grind, by rw [strengthIs_iff]; simp [isTransformEdge]⟩

theorem betaPrime_eq : ∀ q : Nat, q ≤ 51 → betaPrime q = ruleBetaPrime q := by decide

theorem tcPrime_eq : ∀ q : Nat, q ≤ 53 → tcPrime q = ruleTcPrime q := by decide

theorem chromaQpTable_eq (q : Int) : chromaQpTable q = ruleChromaQp q := by
  unfold chromaQpTable ruleChromaQp
  by_cases h : q < 30
  · simp [h]
  · by_cases h' : 43 ≤ q
    · rw [if_neg h, if_pos h', if_neg h, if_neg (by omega), if_neg (by omega)]
    · have : q = 30 ∨ q = 31 ∨ q = 32 ∨ q = 33 ∨ q = 34 ∨ q = 35 ∨ q = 36 ∨ q = 37 ∨ q = 38 ∨ q = 39 ∨ q = 40 ∨
        q = 41 ∨ q = 42 := by omega
      rcases this with rfl | rfl | rfl | rfl | rfl | rfl | rfl | rfl | rfl | rfl | rfl | rfl | rfl <;> decide

end Sys2Proof.Machine
end

