-- ==== Sys2Proof/Laws/Encoding.lean ====
section
/-! SUPPORT. The fields of the words the encoder builds (R62, R65): what each field of a header or of a pair of 16-bit
fields reads as. -/

namespace Sys2Proof

theorem bits_toNat (w : Word) (lo len : Nat) : (bits w lo len).toNat = w.toNat / 2 ^ lo % 2 ^ len := by
  simp [bits, Nat.shiftRight_eq_div_pow]

theorem bits_ofNat (n lo len : Nat) : bits (BitVec.ofNat 32 n) lo len = BitVec.ofNat len (n % 2 ^ 32 / 2 ^ lo) := by
  apply BitVec.eq_of_toNat_eq
  rw [bits_toNat]; simp

theorem flag_eq_bits (w : Word) (lo : Nat) : flag w lo = decide (bits w lo 1 = 1#1) := by
  rw [Bool.eq_iff_iff, decide_eq_true_iff, flag]
  constructor
  · intro h
    apply BitVec.eq_of_getLsbD_eq
    intro i hi
    obtain rfl : i = 0 := by omega
    simpa [bits] using h
  · intro h
    simpa [bits] using congrArg (fun v => v.getLsbD 0) h

theorem header_toNat {op a : Nat} (s : BitVec 5) (c : BitVec 2) (ho : op < 256) (ha : a < 65536) :
    (header op s c a).toNat = op + s.toNat * 2 ^ 8 + c.toNat * 2 ^ 13 + a * 2 ^ 16 := by
  simp only [header, BitVec.toNat_ofNat]; omega

theorem opField_header {op a : Nat} (s : BitVec 5) (c : BitVec 2) (ho : op < 256) (ha : a < 65536) :
    opField (header op s c a) = BitVec.ofNat 8 op := by
  apply BitVec.eq_of_toNat_eq
  simp only [opField, bits_toNat, header_toNat s c ho ha, BitVec.toNat_ofNat]; omega

theorem slotField_header {op a : Nat} (s : BitVec 5) (c : BitVec 2) (ho : op < 256) (ha : a < 65536) :
    slotField (header op s c a) = s := by
  apply BitVec.eq_of_toNat_eq
  simp only [slotField, bits_toNat, header_toNat s c ho ha]; omega

theorem cidxField_header {op a : Nat} (s : BitVec 5) (c : BitVec 2) (ho : op < 256) (ha : a < 65536) :
    cidxField (header op s c a) = c := by
  apply BitVec.eq_of_toNat_eq
  simp only [cidxField, bits_toNat, header_toNat s c ho ha]; omega

/-- Bit 15 of a header is 0. -/
theorem bits_header_reserved {op a : Nat} (s : BitVec 5) (c : BitVec 2) (ho : op < 256) (ha : a < 65536) :
    bits (header op s c a) 15 1 = 0#1 := by
  apply BitVec.eq_of_toNat_eq
  simp only [bits_toNat, header_toNat s c ho ha, BitVec.toNat_ofNat]; omega

/-- A field above bit 15 of a header is a field of its command-specific bits. -/
theorem bits_header {op a : Nat} (s : BitVec 5) (c : BitVec 2) (ho : op < 256) (ha : a < 65536) (k len : Nat) :
    bits (header op s c a) (16 + k) len = BitVec.ofNat len (a / 2 ^ k) := by
  apply BitVec.eq_of_toNat_eq
  rw [bits_toNat, header_toNat s c ho ha, BitVec.toNat_ofNat, Nat.pow_add, ← Nat.div_div_eq_div_mul]
  congr 2; omega

/-- Bit 15 and the command-specific bits of a header without them are 0. -/
theorem bits_header_empty {op : Nat} (s : BitVec 5) (c : BitVec 2) (ho : op < 256) :
    bits (header op s c 0) 15 17 = 0#17 := by
  apply BitVec.eq_of_toNat_eq
  simp only [bits_toNat, header_toNat s c ho (by omega : (0 : Nat) < 65536), BitVec.toNat_ofNat]; omega

@[simp] theorem bits_pairWord_lo (lo hi : BitVec 16) : bits (pairWord lo hi) 0 16 = lo := by
  apply BitVec.eq_of_toNat_eq
  simp only [pairWord, bits_toNat, BitVec.toNat_ofNat]; omega

@[simp] theorem bits_pairWord_hi (lo hi : BitVec 16) : bits (pairWord lo hi) 16 16 = hi := by
  apply BitVec.eq_of_toNat_eq
  simp only [pairWord, bits_toNat, BitVec.toNat_ofNat]; omega

/-- A queue that begins with a complete command of a row whose checks pass decodes to the command its fields name. -/
theorem decode_of_row {w0 : Word} {q : List Word} {r : OpcodeRow} {i : Instr} (hr : opcodeRow (opField w0) = some r)
    (hl : r.len ≤ (w0 :: q).length) (hz : reservedBitsClear r (w0 :: q) = true)
    (hs : r.slotted = true ∨ slotField w0 = 0#5)
    (hc : cidxField w0 ≠ 3#2 ∧ (r.component = true ∨ cidxField w0 = 0#2))
    (hi : assembleFields (opField w0) w0 ((w0 :: q).getD 1 0#32) ((w0 :: q).getD 2 0#32) ((w0 :: q).getD 3 0#32)
      ((w0 :: q).getD 4 0#32) = some i) : decode (w0 :: q) = .ok i := by
  have h1 : ¬ (w0 :: q).length < r.len := by omega
  have h2 : ¬ (r.slotted = false ∧ slotField w0 ≠ 0#5) := by rcases hs with h | h <;> simp [h]
  have h3 : ¬ (cidxField w0 = 3#2 ∨ (r.component = false ∧ cidxField w0 ≠ 0#2)) := by
    rcases hc with ⟨h, h' | h'⟩ <;> simp_all
  simp only [decode, hr, if_neg h1, hz, Bool.true_eq_false, if_false, if_neg h2, if_neg h3, hi]

end Sys2Proof
end

