-- ==== Sys2Proof/Laws/PerInstr.lean ====
section
/-! SUPPORT. What holds of each command as syntax: its encoding has the length of R64. -/

namespace Sys2Proof.Laws.EncodeLength

/-- The words of a command are as many as R64 says. -/
def Statement (i : Instr) : Prop := (encode i).length = i.length

theorem nop : Statement (.nop) := rfl

theorem regWrite (slot : BitVec 5) (reg : BitVec 8) (value : Word) : Statement (.regWrite slot reg value) := rfl

theorem picInit (slot : BitVec 5) : Statement (.picInit slot) := rfl

theorem picDone (slot : BitVec 5) : Statement (.picDone slot) := rfl

theorem picFree (slot : BitVec 5) : Statement (.picFree slot) := rfl

theorem setCtb (slot : BitVec 5) (rx ry : BitVec 16) (ctbAddrTs : BitVec 32) (sliceIdx tileId : BitVec 16) :
    Statement (.setCtb slot rx ry ctbAddrTs sliceIdx tileId) := rfl

theorem setSlice (slot : BitVec 5) (sliceIdx : BitVec 16) (dbkDis lfAcross saoL saoC : Bool) (beta tc : BitVec 4) :
    Statement (.setSlice slot sliceIdx dbkDis lfAcross saoL saoC beta tc) := rfl

theorem setCu (slot : BitVec 5) (log2Cb : BitVec 3) (intra pcm bypass : Bool) (qpY : BitVec 7) (x y : BitVec 16) :
    Statement (.setCu slot log2Cb intra pcm bypass qpY x y) := rfl

theorem markTb (slot : BitVec 5) (log2Tb : BitVec 3) (nz : Bool) (x y : BitVec 16) :
    Statement (.markTb slot log2Tb nz x y) := rfl

theorem markPb (slot : BitVec 5) (pf0 pf1 : Bool) (ref0 ref1 : BitVec 5) (x y w h mv0x mv0y mv1x mv1y : BitVec 16) :
    Statement (.markPb slot pf0 pf1 ref0 ref1 x y w h mv0x mv0y mv1x mv1y) := rfl

theorem setSao (slot : BitVec 5) (c : BitVec 2) (saoType : BitVec 2) (pos : BitVec 5) (rx ry : BitVec 16) (off1 off2 off3 off4 : BitVec 8) :
    Statement (.setSao slot c saoType pos rx ry off1 off2 off3 off4) := rfl

theorem setScaling (slot : BitVec 5) (sizeId : BitVec 2) (matrix : BitVec 3) (sx sy : BitVec 5) (value : BitVec 8) :
    Statement (.setScaling slot sizeId matrix sx sy value) := rfl

theorem coefWrite (cx cy : BitVec 5) (value : BitVec 16) : Statement (.coefWrite cx cy value) := rfl

theorem coefClear : Statement (.coefClear) := rfl

theorem putSample (slot : BitVec 5) (c : BitVec 2) (x y value : BitVec 16) :
    Statement (.putSample slot c x y value) := rfl

theorem intraPred (slot : BitVec 5) (c : BitVec 2) (log2N : BitVec 3) (mode : BitVec 6) (x y : BitVec 16) :
    Statement (.intraPred slot c log2N mode x y) := rfl

theorem residual (slot : BitVec 5) (c : BitVec 2) (log2N : BitVec 3) (tskip : Bool) (qp : BitVec 7) (x y : BitVec 16) :
    Statement (.residual slot c log2N tskip qp x y) := rfl

theorem interPred (slot : BitVec 5) (c : BitVec 2) (expl : Bool) (denom : BitVec 3) (x y w h wt0 of0 wt1 of1 : BitVec 16) :
    Statement (.interPred slot c expl denom x y w h wt0 of0 wt1 of1) := rfl

theorem deblock (slot : BitVec 5) (dir : Bool) (rx ry : BitVec 16) : Statement (.deblock slot dir rx ry) := rfl

theorem sao (slot : BitVec 5) (rx ry : BitVec 16) : Statement (.sao slot rx ry) := rfl

theorem setProgress (slot : BitVec 5) (value : BitVec 3) (rx ry : BitVec 16) :
    Statement (.setProgress slot value rx ry) := rfl

theorem waitProgress (slot : BitVec 5) (value : BitVec 3) (rx ry : BitVec 16) :
    Statement (.waitProgress slot value rx ry) := rfl

end Sys2Proof.Laws.EncodeLength
end

