-- ==== Sys2Proof/Machine/Asm.lean ====
section
/-! DEFINITION. The assembler syntax of R68 and the pseudo-commands of R69. The machine uses none of it: it only turns
text into the words of R65. -/

namespace Sys2Proof.Machine

/-! ## Fields -/

/-- A field a command text names (R65, R68): its name, word, lowest bit, width, and whether it is signed. -/
structure AsmField where
  name : List Char
  word : Nat
  lo : Nat
  width : Nat
  signed : Bool
  deriving DecidableEq, Repr

/-- An unsigned field. -/
def fieldU (name : String) (word lo width : Nat) : AsmField := ⟨name.toList, word, lo, width, false⟩

/-- A signed field. -/
def fieldS (name : String) (word lo width : Nat) : AsmField := ⟨name.toList, word, lo, width, true⟩

/-- `s=`, the SLOT field. -/
def fieldSlot : AsmField := fieldU "s" 0 8 5

/-- `c=`, the CIDX field. -/
def fieldC : AsmField := fieldU "c" 0 13 2

/-- Two 16-bit unsigned fields of one word. -/
def fieldPair (lo hi : String) (word : Nat) : List AsmField := [fieldU lo word 0 16, fieldU hi word 16 16]

/-- A command's text: mnemonic, opcode, length, fields (R64, R65). -/
structure AsmRow where
  mnemonic : List Char
  op : Nat
  len : Nat
  fields : List AsmField
  deriving DecidableEq, Repr

/-- A row of the table. -/
def asmRow (mnemonic : String) (op len : Nat) (fields : List AsmField) : AsmRow := ⟨mnemonic.toList, op, len, fields⟩

/-- The commands of opcodes 0x00 to 0x07. -/
def asmTable0 : List AsmRow :=
  [asmRow "NOP" 0x00 1 [],
   asmRow "REG_WRITE" 0x01 2 [fieldSlot, fieldU "reg" 0 16 8, fieldU "value" 1 0 32],
   asmRow "PIC_INIT" 0x02 1 [fieldSlot],
   asmRow "PIC_DONE" 0x03 1 [fieldSlot],
   asmRow "PIC_FREE" 0x04 1 [fieldSlot],
   asmRow "SET_CTB" 0x05 4 (fieldSlot :: fieldPair "rx" "ry" 1 ++ [fieldU "ctbaddrts" 2 0 32] ++
     fieldPair "sliceidx" "tileid" 3),
   asmRow "SET_SLICE" 0x06 2 [fieldSlot, fieldU "sliceidx" 0 16 16, fieldU "dbk_dis" 1 0 1, fieldU "lf_across" 1 1 1,
     fieldU "sao_l" 1 2 1, fieldU "sao_c" 1 3 1, fieldS "beta" 1 4 4, fieldS "tc" 1 8 4],
   asmRow "SET_CU" 0x07 2 ([fieldSlot, fieldU "log2cb" 0 16 3, fieldU "intra" 0 19 1, fieldU "pcm" 0 20 1,
     fieldU "bypass" 0 21 1, fieldS "qpy" 0 22 7] ++ fieldPair "x" "y" 1)]

/-- The commands of opcodes 0x08 to 0x12. -/
def asmTable1 : List AsmRow :=
  [asmRow "MARK_TB" 0x08 2 ([fieldSlot, fieldU "log2tb" 0 16 3, fieldU "nz" 0 19 1] ++ fieldPair "x" "y" 1),
   asmRow "MARK_PB" 0x09 5 ([fieldSlot, fieldU "pf0" 0 16 1, fieldU "pf1" 0 17 1, fieldU "ref0" 0 18 5,
     fieldU "ref1" 0 23 5] ++ fieldPair "x" "y" 1 ++ fieldPair "w" "h" 2 ++
     [fieldS "mv0x" 3 0 16, fieldS "mv0y" 3 16 16, fieldS "mv1x" 4 0 16, fieldS "mv1y" 4 16 16]),
   asmRow "SET_SAO" 0x0A 3 ([fieldSlot, fieldC, fieldU "type" 0 16 2, fieldU "pos" 0 18 5] ++ fieldPair "rx" "ry" 1 ++
     [fieldS "off1" 2 0 8, fieldS "off2" 2 8 8, fieldS "off3" 2 16 8, fieldS "off4" 2 24 8]),
   asmRow "SET_SCALING" 0x0B 2 [fieldSlot, fieldU "sizeid" 0 16 2, fieldU "matrix" 0 18 3, fieldU "sx" 0 21 5,
     fieldU "sy" 0 26 5, fieldU "value" 1 0 8],
   asmRow "COEF_WRITE" 0x10 2 [fieldU "cx" 0 16 5, fieldU "cy" 0 21 5, fieldS "value" 1 0 16],
   asmRow "COEF_CLEAR" 0x11 1 [],
   asmRow "PUT_SAMPLE" 0x12 3 ([fieldSlot, fieldC] ++ fieldPair "x" "y" 1 ++ [fieldU "value" 2 0 16])]

/-- The commands of opcodes 0x20 to 0x41. -/
def asmTable2 : List AsmRow :=
  [asmRow "INTRA_PRED" 0x20 2 ([fieldSlot, fieldC, fieldU "log2n" 0 16 3, fieldU "mode" 0 19 6] ++ fieldPair "x" "y" 1),
   asmRow "RESIDUAL" 0x21 2 ([fieldSlot, fieldC, fieldU "log2n" 0 16 3, fieldU "tskip" 0 19 1, fieldU "qp" 0 20 7] ++
     fieldPair "x" "y" 1),
   asmRow "INTER_PRED" 0x22 5 ([fieldSlot, fieldC, fieldU "expl" 0 16 1, fieldU "denom" 0 17 3] ++
     fieldPair "x" "y" 1 ++ fieldPair "w" "h" 2 ++
     [fieldS "wt0" 3 0 16, fieldS "of0" 3 16 16, fieldS "wt1" 4 0 16, fieldS "of1" 4 16 16]),
   asmRow "DEBLOCK" 0x30 2 ([fieldSlot, fieldU "dir" 0 16 1] ++ fieldPair "rx" "ry" 1),
   asmRow "SAO" 0x31 2 (fieldSlot :: fieldPair "rx" "ry" 1),
   asmRow "SET_PROGRESS" 0x40 2 ([fieldSlot, fieldU "value" 0 16 3] ++ fieldPair "rx" "ry" 1),
   asmRow "WAIT_PROGRESS" 0x41 2 ([fieldSlot, fieldU "value" 0 16 3] ++ fieldPair "rx" "ry" 1)]

/-- Every command. -/
def asmTable : List AsmRow := asmTable0 ++ asmTable1 ++ asmTable2

/-! ## Parsing -/

/-- An assembly error (R68). -/
inductive AsmError where
  | unknownMnemonic
  | unknownField
  /-- A field is given twice (log 23). -/
  | repeatedField
  | badNumber
  /-- The value does not fit the field. -/
  | doesNotFit
  deriving DecidableEq, Repr

/-- The value of a digit in base 16. -/
def digitValue (ch : Char) : Option Nat :=
  let n := ch.toNat
  if 48 ≤ n ∧ n ≤ 57 then some (n - 48)
  else if 97 ≤ n ∧ n ≤ 102 then some (n - 87)
  else if 65 ≤ n ∧ n ≤ 70 then some (n - 55)
  else none

/-- The number written by digits of a base, after the digits worth `acc`. -/
def digitsValue (base : Nat) : List Char → Nat → Option Nat
  | [], acc => some acc
  | ch :: t, acc =>
    match digitValue ch with
    | some d => if d < base then digitsValue base t (acc * base + d) else none
    | none => none

/-- An unsigned number: decimal, or hexadecimal after `0x` (R68). -/
def parseNat (cs : List Char) : Option Nat :=
  match cs with
  | [] => none
  | ['0', 'x'] => none
  | '0' :: 'x' :: t => digitsValue 16 t 0
  | _ => digitsValue 10 cs 0

/-- A number with an optional sign. -/
def parseInt (cs : List Char) : Option Int :=
  match cs with
  | '-' :: t => (parseNat t).map fun n => -(n : Int)
  | '+' :: t => (parseNat t).map Int.ofNat
  | _ => (parseNat cs).map Int.ofNat

/-- The bits of a value in a field; `none` where it does not fit (R68). -/
def fieldBits (f : AsmField) (v : Int) : Option Nat :=
  if f.signed then
    if -(2 ^ (f.width - 1)) ≤ v ∧ v < 2 ^ (f.width - 1) then some (v % 2 ^ f.width).toNat else none
  else if 0 ≤ v ∧ v < 2 ^ f.width then some v.toNat else none

/-- The text up to a comment (R68). -/
def dropComment (cs : List Char) : List Char := cs.takeWhile fun ch => ch != ';'

/-- The parts of a text between spaces, the current part in `cur`, last character first. -/
def splitSpaces : List Char → List Char → List (List Char)
  | [], cur => if cur = [] then [] else [cur.reverse]
  | ch :: t, cur =>
    if ch = ' ' then (if cur = [] then splitSpaces t [] else cur.reverse :: splitSpaces t [])
    else splitSpaces t (ch :: cur)

/-- Place one `name=value` pair into the words of a command. -/
def placeField (row : AsmRow) (words : List Nat) (seen : List (List Char)) (tok : List Char) :
    Except AsmError (List Nat × List (List Char)) :=
  let name := tok.takeWhile fun ch => ch != '='
  let text := (tok.dropWhile fun ch => ch != '=').drop 1
  match row.fields.find? fun f => f.name == name with
  | none => .error .unknownField
  | some f =>
    if name ∈ seen then .error .repeatedField
    else match parseInt text with
      | none => .error .badNumber
      | some v =>
        match fieldBits f v with
        | none => .error .doesNotFit
        | some b => .ok (words.set f.word (words.getD f.word 0 + b * 2 ^ f.lo), name :: seen)

/-- Place every pair of a command. -/
def placeFields (row : AsmRow) : List (List Char) → List Nat → List (List Char) → Except AsmError (List Nat)
  | [], words, _ => .ok words
  | tok :: t, words, seen =>
    match placeField row words seen tok with
    | .error e => .error e
    | .ok r => placeFields row t r.1 r.2

/-- Assemble one line into the words of its command; an empty line has none (R68). -/
def assemble (line : List Char) : Except AsmError (List Word) :=
  match splitSpaces (dropComment line) [] with
  | [] => .ok []
  | m :: toks =>
    match asmTable.find? fun r => r.mnemonic == m with
    | none => .error .unknownMnemonic
    | some row =>
      match placeFields row toks (row.op :: List.replicate (row.len - 1) 0) [] with
      | .error e => .error e
      | .ok ws => .ok (ws.map (BitVec.ofNat 32))

/-! ## Pseudo-commands (R69) -/

/-- `COEFS`: one `COEF_WRITE` per triple, in order. -/
def expandCoefs (cs : List (BitVec 5 × BitVec 5 × BitVec 16)) : List Instr :=
  cs.map fun t => .coefWrite t.1 t.2.1 t.2.2

/-- `TB_INTRA`: the levels, the prediction, and the residual when there is a level. -/
def expandTbIntra (s : BitVec 5) (c : BitVec 2) (x y : BitVec 16) (log2N : BitVec 3) (mode : BitVec 6) (qp : BitVec 7)
    (tskip : Bool) (cs : List (BitVec 5 × BitVec 5 × BitVec 16)) : List Instr :=
  expandCoefs cs ++ [.intraPred s c log2N mode x y] ++
    (if cs = [] then [] else [.residual s c log2N tskip qp x y])

/-- `WAIT_REGION`: one `WAIT_PROGRESS` per CTB of the rectangle, row by row. -/
def expandWaitRegion (s : BitVec 5) (rx0 ry0 rx1 ry1 : BitVec 16) (v : BitVec 3) : List Instr :=
  (List.range (ry1.toNat + 1 - ry0.toNat)).flatMap fun j => (List.range (rx1.toNat + 1 - rx0.toNat)).map fun i =>
    .waitProgress s v (BitVec.ofNat 16 (rx0.toNat + i)) (BitVec.ofNat 16 (ry0.toNat + j))

/-- `SET_ROW_PROGRESS`: one `SET_PROGRESS` per CTB of a row of `width` CTBs. -/
def expandSetRowProgress (s : BitVec 5) (width : Nat) (ry : BitVec 16) (v : BitVec 3) : List Instr :=
  (List.range width).map fun rx => .setProgress s v (BitVec.ofNat 16 rx) ry

end Sys2Proof.Machine
end

