-- ==== Sys2Proof/Machine/HostInfo.lean ====
section
/-! DEFINITION. What the host computes before it sends a command, as the spec gives it for reference: the quantisation
parameter (R72), the scaling lists (R85, R90), the chroma intra mode (R112, R113), PCM and SAO scaling (R193,
R223). No command uses these. -/

namespace Sys2Proof.Machine

/-! ## The quantisation parameter (R72) -/

/-- qP of a luma transform block: Qp′Y (R72). -/
def hostQpLuma (g : CfgRegs) (qpY : Int) : Int := qpY + g.qpBdOffset 0

/-- qP of a chroma transform block: Qp′Cb or Qp′Cr, with the slice's offset (R72, R73). -/
def hostQpChroma (g : CfgRegs) (c : Nat) (qpY sliceOffset : Int) : Int :=
  let offset := if c = 1 then g.cbQpOffset else g.crQpOffset
  let qPi := clip3 (-g.qpBdOffset c) 57 (qpY + offset + sliceOffset)
  (if g.chromaFormat = 1 then chromaQpTable qPi else min qPi 51) + g.qpBdOffset c

/-! ## The default scaling lists (R90) -/

/-- The default INTRA list in scan order (R90). -/
def defaultIntraList : List Nat :=
  [16, 16, 16, 16, 16, 16, 16, 16, 16, 16, 17, 16, 17, 16, 17, 18, 17, 18, 18, 17, 18, 21, 19, 20, 21, 20, 19, 21, 24,
   22, 22, 24] ++
  [24, 22, 22, 24, 25, 25, 27, 30, 27, 25, 25, 29, 31, 35, 35, 31, 29, 36, 41, 44, 41, 36, 47, 54, 54, 47, 65, 70, 65,
   88, 88, 115]

/-- The default INTER list in scan order (R90). -/
def defaultInterList : List Nat :=
  [16, 16, 16, 16, 16, 16, 16, 16, 16, 16, 17, 17, 17, 17, 17, 18, 18, 18, 18, 18, 18, 20, 20, 20, 20, 20, 20, 20, 24,
   24, 24, 24] ++
  [24, 24, 24, 24, 25, 25, 25, 25, 25, 25, 25, 28, 28, 28, 28, 28, 28, 33, 33, 33, 33, 33, 41, 41, 41, 41, 54, 54, 54,
   71, 71, 91]

/-- The up-right diagonal scan of an n × n block: the positions (x, y) in order, y falling along an anti-diagonal
(R90). -/
def diagonalScan (n : Nat) : List (Nat × Nat) :=
  (List.range (2 * n - 1)).flatMap fun d =>
    ((List.range (d + 1)).map fun i => (i, d - i)).filter fun p => decide (p.1 < n ∧ p.2 < n)

/-- The place of position (x, y) in a scan. -/
def scanIndex : List (Nat × Nat) → Nat → Nat → Nat
  | [], _, _ => 0
  | p :: t, x, y => if p = (x, y) then 0 else scanIndex t x y + 1

/-- The scaling factor a host writes for a list with DC value `dc` (R85): the 4 × 4 scan for size 0, the 8 × 8 scan for
the others, each entry covering a square of 2^(sizeId - 1) positions, and position (0, 0) the DC value above size 1. -/
def scalingFromList (sizeId : Nat) (list : List Nat) (dc x y : Nat) : Nat :=
  if sizeId = 0 then list.getD (scanIndex (diagonalScan 4) x y) 0
  else if 2 ≤ sizeId ∧ x = 0 ∧ y = 0 then dc
  else list.getD (scanIndex (diagonalScan 8) (x / 2 ^ (sizeId - 1)) (y / 2 ^ (sizeId - 1))) 0

/-- The default scaling factor of a size, matrix and position (R90). -/
def defaultScaling (sizeId matrixId x y : Nat) : Nat :=
  if sizeId = 0 then 16
  else scalingFromList sizeId (if matrixId < 3 then defaultIntraList else defaultInterList) 16 x y

/-! ## The chroma intra mode (R112, R113) -/

/-- `Map422[X]` (R113). -/
def map422 (mode : Nat) : Nat :=
  ([0, 1, 2, 2, 2, 2, 3, 5, 7, 8, 10, 11, 13, 15, 16, 18, 19, 20, 21, 22, 23, 23, 24, 24, 25, 25, 26, 27, 27, 28, 28] ++
    [29, 29, 30, 31]).getD mode 0

/-- The chroma mode before `Map422`, from `intra_chroma_pred_mode` and the luma mode (R112). -/
def chromaMode (predMode lumaMode : Nat) : Nat :=
  if predMode = 4 then lumaMode
  else
    let m := [0, 26, 10, 1].getD predMode 0
    if m = lumaMode then 34 else m

/-- The mode passed to `INTRA_PRED` for a chroma block (R112). -/
def hostChromaMode (g : CfgRegs) (predMode lumaMode : Nat) : Nat :=
  if g.chromaFormat = 2 then map422 (chromaMode predMode lumaMode) else chromaMode predMode lumaMode

/-! ## Samples and offsets -/

/-- A PCM sample at the plane's bit depth (R223). -/
def hostPcmSample (bitDepth pcmBitDepth sample : Nat) : Nat := sample * 2 ^ (bitDepth - pcmBitDepth)

/-- An SAO offset at the plane's bit depth (R193). -/
def hostSaoOffset (bitDepth magnitude : Nat) : Nat := magnitude * 2 ^ (bitDepth - 10)

end Sys2Proof.Machine
end

