-- ==== Sys2Proof/Tests/Slice0.lean ====
section
/-! SUPPORT. Tests: expected values are the spec's vectors (95_test_vectors.md and the worked rules R95, R115, R166,
R189, R206). -/

namespace Sys2Proof.Tests

open Sys2Proof Sys2Proof.Machine

/-! ## Well-formedness: an ill-formed term of each checked command (R67) -/

theorem test_ill_setSao : (Instr.setSao 0 3 0 0 0 0 0 0 0 0).wellFormed = false := by decide

theorem test_ill_putSample : (Instr.putSample 0 3 0 0 0).wellFormed = false := by decide

theorem test_ill_intraPred : (Instr.intraPred 0 3 2 0 0 0).wellFormed = false := by decide

theorem test_ill_residual : (Instr.residual 0 3 2 false 0 0 0).wellFormed = false := by decide

theorem test_ill_interPred : (Instr.interPred 0 3 false 0 0 0 8 8 0 0 0 0).wellFormed = false := by decide

/-! ## Decoding: one word of each command (95 section 2.1) -/

theorem test_decode_nop : decode [0x00000000#32] = .ok .nop := by decide

theorem test_decode_regWrite : decode [0x00020101#32, 0x00001221#32] = .ok (.regWrite 1 2 0x1221) := by decide

theorem test_decode_picInit : decode [0x00000102#32] = .ok (.picInit 1) := by decide

theorem test_decode_picDone : decode [0x00000103#32] = .ok (.picDone 1) := by decide

theorem test_decode_picFree : decode [0x00000104#32] = .ok (.picFree 1) := by decide

theorem test_decode_setCtb : decode [0x00000005#32, 0x00000001#32, 0x00000001#32, 0x00000000#32] =
    .ok (.setCtb 0 1 0 1 0 0) := by decide

theorem test_decode_setSlice : decode [0x00020006#32, 0x000002FE#32] =
    .ok (.setSlice 0 2 false true true true (-1) 2) := by decide

theorem test_decode_setCu : decode [0x1D030007#32, 0x00000000#32] =
    .ok (.setCu 0 3 false false false (-12) 0 0) := by decide

theorem test_decode_markTb : decode [0x000B0008#32, 0x00000008#32] = .ok (.markTb 0 3 true 8 0) := by decide

theorem test_decode_markPb : decode [0x00010109#32, 0x00000000#32, 0x00080010#32, 0x00000002#32, 0x00000000#32] =
    .ok (.markPb 1 true false 0 0 0 0 16 8 2 0 0 0) := by decide

theorem test_decode_setSao : decode [0x0041000A#32, 0x00000000#32, 0x00000002#32] =
    .ok (.setSao 0 0 1 16 0 0 2 0 0 0) := by decide

theorem test_decode_setScaling : decode [0x1CE1000B#32, 0x00000073#32] = .ok (.setScaling 0 1 0 7 7 115) := by decide

theorem test_decode_coefWrite : decode [0x00010010#32, 0x0000FFEC#32] = .ok (.coefWrite 1 0 (-20)) := by decide

theorem test_decode_coefClear : decode [0x00000011#32] = .ok .coefClear := by decide

theorem test_decode_putSample : decode [0x00002012#32, 0x00020003#32, 0x000000C8#32] =
    .ok (.putSample 0 1 3 2 200) := by decide

theorem test_decode_intraPred : decode [0x00024020#32, 0x00000000#32] = .ok (.intraPred 0 2 2 0 0 0) := by decide

theorem test_decode_residual : decode [0x02830021#32, 0x00000008#32] = .ok (.residual 0 0 3 false 40 8 0) := by decide

theorem test_decode_interPred : decode [0x00000122#32, 0x00000000#32, 0x00080010#32, 0x00000000#32, 0x00000000#32] =
    .ok (.interPred 1 0 false 0 0 0 16 8 0 0 0 0) := by decide

theorem test_decode_deblock : decode [0x00010130#32, 0x00000001#32] = .ok (.deblock 1 true 1 0) := by decide

theorem test_decode_sao : decode [0x00000031#32, 0x00010000#32] = .ok (.sao 0 0 1) := by decide

theorem test_decode_setProgress : decode [0x00040040#32, 0x00020001#32] = .ok (.setProgress 0 4 1 2) := by decide

theorem test_decode_waitProgress : decode [0x00040341#32, 0x00010000#32] = .ok (.waitProgress 3 4 0 1) := by decide

/-! ## Decoding: corner cases (95 section 2.2) -/

theorem test_decode_unknown : decode [0x000000FF#32] = .error .unknownOpcode := by decide

theorem test_decode_reserved_bit15 : decode [0x00008000#32] = .error .reservedBitSet := by decide

theorem test_decode_nop_slot : decode [0x00000100#32] = .error .slotNamed := by decide

theorem test_decode_coefClear_cidx : decode [0x00002011#32] = .error .badComponent := by decide

theorem test_decode_intra_cidx3 : decode [0x00D36020#32, 0x00000008#32] = .error .badComponent := by decide

theorem test_decode_picInit_reserved : decode [0x00010002#32] = .error .reservedBitSet := by decide

theorem test_decode_incomplete : decode [0x00000001#32] = .error .incomplete := by decide

/-! ## The assembler (R68, R70) and the pseudo-commands (R69) -/

theorem test_assemble_intraPred : assemble "INTRA_PRED s=0 c=0 x=8 y=0 log2n=3 mode=26 ; R70".toList =
    .ok [0x00D30020#32, 0x00000008#32] := by decide

theorem test_assemble_signed : assemble "SET_SLICE s=0 sliceidx=2 lf_across=1 sao_l=1 sao_c=1 beta=-1 tc=2".toList =
    .ok [0x00020006#32, 0x000002FE#32] := by decide

theorem test_assemble_too_large : assemble "PIC_INIT s=32".toList = .error .doesNotFit := by decide

theorem test_tb_intra_without_levels : expandTbIntra 0 0 0 0 2 1 30 false [] = [.intraPred 0 0 2 1 0 0] := by decide

/-! ## Transform and residual (R79, R95) -/

/-- Only the level at (x, y) is not 0. -/
def oneLevel (x y : Nat) (v : Int) : Nat → Nat → Int := fun a b => if a = x ∧ b = y then v else 0

/-- Flat scaling. -/
def flat16 : Nat → Nat → Int := fun _ _ => 16

theorem test_dct_row5 : (List.range 32).map (dctEntry 5) =
    [88, 67, 31, -13, -54, -82, -90, -78, -46, -4, 38, 73, 90, 85, 61, 22, -22, -61, -85, -90, -73, -38, 4, 46, 78, 90,
     82, 54, 13, -31, -67, -88] := by decide

theorem test_residual_dct : (residualRows 8 2 22 false false .dct flat16 (oneLevel 1 0 10)).getD 3 [] =
    [26, 11, -11, -26] := by decide

theorem test_residual_dst : residualRows 8 2 27 false false .dst flat16 (oneLevel 1 0 (-20)) =
    [[-37, -37, 0, 37], [-71, -71, 0, 71], [-95, -95, 0, 95], [-108, -108, 0, 108]] := by decide

theorem test_residual_skip : residualRows 8 2 4 false true .dct flat16 (oneLevel 2 1 5) =
    [[0, 0, 0, 0], [0, 0, 5, 0], [0, 0, 0, 0], [0, 0, 0, 0]] := by decide

theorem test_residual_clip : residualRows 8 2 51 false false .dct flat16 (fun _ _ => 32767) =
    [[1976, -376, 376, 72], [-726, 138, -138, -26], [726, -138, 138, 26], [139, -26, 26, 5]] := by decide

theorem test_default_scaling : [defaultScaling 1 0 7 7, defaultScaling 1 0 6 7, defaultScaling 1 3 5 6,
    defaultScaling 2 0 0 0, defaultScaling 3 5 31 31] = [115, 88, 41, 16, 91] := by decide

theorem test_chroma_qp : [29, 30, 31, 34, 35, 39, 43, 44, 51, 57].map chromaQpTable =
    [29, 29, 30, 33, 33, 35, 37, 38, 45, 51] := by decide

/-! ## Intra prediction (R115) -/

/-- A 16 × 16 picture, 4:2:0, 8-bit, CTB 16. -/
def cfg420 : CfgRegs := { CfgRegs.reset with picWidthReg := 16, picHeightReg := 16, formatReg := 0x1221 }

/-- The references of R115. -/
def refs115 : List (Option Int) :=
  [80, 70, 60, 50, 40, 30, 20, 10, 90, 100, 110, 120, 130, 140, 150, 160, 170].map some

/-- The rows of a 4 × 4 prediction from the references of R115. -/
def rows115 (c mode : Nat) : List (List Int) :=
  (List.range 4).map fun y => (List.range 4).map fun x =>
    predictedSample (intraRefs cfg420 refs115 c 2 mode) 8 c 2 mode x y

theorem test_intra_planar : rows115 0 0 =
    [[65, 85, 105, 125], [63, 80, 98, 115], [60, 75, 90, 105], [58, 70, 83, 95]] := by decide

theorem test_intra_dc : rows115 0 1 = [[63, 80, 83, 85], [58, 70, 70, 70], [60, 70, 70, 70], [63, 70, 70, 70]] := by
  decide

theorem test_intra_mode25 : rows115 0 25 =
    [[99, 109, 119, 129], [99, 109, 119, 129], [98, 108, 118, 128], [98, 108, 118, 128]] := by decide

theorem test_intra_mode11 : rows115 0 11 = [[15, 20, 25, 30], [19, 19, 18, 18], [29, 29, 28, 28], [39, 39, 38, 38]] := by
  decide

theorem test_intra_substitute : substitute 8 ((List.replicate 4 none) ++
      ([40, 30, 20, 10, 90, 100, 110, 120, 130].map some ++ List.replicate 4 none)) =
    [40, 40, 40, 40, 40, 30, 20, 10, 90, 100, 110, 120, 130, 130, 130, 130, 130] := by decide

/-! ## Inter prediction (R166) -/

/-- The reference plane of R166. -/
def plane166 : Nat → Int → Int → Int := fun _ x y =>
  let x := clip3 0 15 x
  let y := clip3 0 15 y
  x * x / 2 + 5 * y

theorem test_inter_row : (List.range 4).map (fun x : Nat => interpolate lumaTaps 8 3 8 plane166 (4 + x) 4 2 2) =
    [2070, 2390, 2774, 3222] := by decide

theorem test_inter_weight : (weightUni ⟨true, 5, 48, -10, 0, 0⟩ 8 48 (-10) 1792,
    weightUni ⟨false, 0, 0, 0, 0, 0⟩ 8 0 0 1910) = (32, 30) := by decide

/-! ## Deblocking (R189) -/

/-- A segment between blocks of QpY `q` with strength `b` and offsets 0. -/
def seg (q : BitVec 7) (b : Nat) : Segment :=
  ⟨{ MetaRec.reset with qpY := q }, { MetaRec.reset with qpY := q }, SliceRec.reset, b⟩

/-- Four identical 8-bit lines filtered: the first of them. -/
def filtered (q : BitVec 7) (b : Nat) (l : Line) : LineResult :=
  let tc := tcOf 8 (qpAverage (seg q b).mP (seg q b).mQ) (seg q b)
  lumaLine 8 tc (lumaDecision (lumaBeta 8 (seg q b)) tc l l) l

theorem test_deblock_strong : filtered 40 2 ⟨100, 100, 100, 100, 110, 110, 110, 110⟩ =
    ⟨[104, 103, 101], [106, 108, 109]⟩ := by decide

theorem test_deblock_weak : filtered 40 2 ⟨98, 99, 100, 101, 111, 112, 113, 114⟩ = ⟨[103, 101], [106, 109]⟩ := by decide

theorem test_deblock_one_side : filtered 27 1 ⟨100, 102, 101, 100, 108, 107, 108, 108⟩ = ⟨[102], [106]⟩ := by decide

theorem test_deblock_off : filtered 32 2 ⟨100, 130, 100, 130, 130, 100, 130, 100⟩ = ⟨[], []⟩ := by decide

theorem test_deblock_chroma : chromaLine 8 5 ⟨60, 70, 0, 0, 90, 95, 0, 0⟩ = ⟨[65], [85]⟩ := by decide

/-- A block predicted from list 0, slot `r`, vector (x, y). -/
def uni (r : BitVec 5) (x y : BitVec 16) : MetaRec :=
  { MetaRec.reset with predFlagL0 := true, refSlotL0 := r, mvL0 := ⟨x, y⟩ }

theorem test_motion_bs : [motionBs (uni 1 0 0) (uni 1 3 (-3)), motionBs (uni 1 0 0) (uni 1 4 0),
    motionBs (uni 1 0 0) (uni 2 0 0)] = [0, 1, 1] := by decide

/-! ## SAO (R206) -/

theorem test_sao_edge : [(10, 12, 12), (10, 10, 12), (10, 10, 10), (10, 8, 10), (10, 8, 8), (1, 0, 0)].map
    (fun (t : Int × Int × Int) => saoOutput 8 ⟨.edge, 0, 0, 3, 1, -1, -3⟩ (edgeIdx t.1 t.2.1 t.2.2) t.1) =
    [13, 11, 10, 9, 7, 0] := by decide

theorem test_sao_band : [254, 248, 240, 3, 8, 100].map
    (fun v => saoOutput 8 ⟨.band, 30, 0, 1, 2, 3, 4⟩ (bandIdx 8 30 v) v) = [255, 250, 241, 6, 12, 100] := by decide

/-! ## One step on a small state -/

/-- Slot 0 in flight, one CTB set; slot 1 decoded, of the same format; some samples of both written. -/
def demo : State :=
  ((State.reset.setSlot 0 { Slot.fresh cfg420 with ctbs := [(0, ⟨0, 0, 0, true⟩)] }).setSlot 1
    { Slot.fresh cfg420 with done := true, integrity := .decoded, progress := [(0, .saoComplete)] }).setSamples
    ((List.range 4).flatMap fun y => (List.range 4).flatMap fun x =>
      [(sampleAddr 0 .recon 0 x y, 128), (sampleAddr 1 .out 0 x y, (77 : Int))])

/-- The state a command leaves, or the start state where it stops. -/
def after (i : Instr) (s : State) : State :=
  match exec i s with
  | .next t => t
  | .fault _ => s
  | .refused _ => s

/-- The sample (x, y) of plane `c` as a number. -/
def sampleNat (s : State) (n : BitVec 5) (set : PlaneSet) (c x y : Nat) : Option Nat :=
  (memSample? s.mem (sampleAddr n set c x y)).map (·.toNat)

theorem test_nop : ((after .nop demo).engine 0).cmdCount = 1 := by decide

theorem test_regWrite : ((after (.regWrite 3 0 0x10040) demo).slot 3).cfg.picWidthReg = 0x10040 := by decide

theorem test_regWrite_locked : ((after (.regWrite 0 0 64) demo).engine 0).errCode = 902 := by decide

theorem test_picInit_reset_cfg : ((after (.picInit 15) demo).engine 0).errCode = 8 := by decide

theorem test_picInit_full : ((after (.picInit 0) demo).engine 0).errCode = 9 := by decide

theorem test_picDone : ((after (.picDone 0) demo).slot 0).integrity = .decoded := by decide

theorem test_picFree : ((after (.picFree 1) demo).slot 1).alloc = false := by decide

theorem test_setCtb : ((after (.setCtb 0 0 0 0 7 5) demo).slot 0).ctbAt 0 0 = ⟨0, 7, 5, true⟩ := by decide

theorem test_setSlice : ((after (.setSlice 0 2 false true true true (-6) 2) demo).slot 0).sliceAt 2 =
    ⟨false, true, true, true, -6, 2⟩ := by decide

theorem test_setCu_pcm_inter : ((after (.setCu 0 3 false true false 30 0 0) demo).engine 0).errCode = 8 := by decide

theorem test_setCu : (((after (.setCu 0 3 true false false 30 8 0) demo).slot 0).metaAt 15 7).qpY = 30 := by decide

theorem test_markTb : (((after (.markTb 0 3 true 8 0) demo).slot 0).metaAt 8 4).tbEdgeV = true ∧
    (((after (.markTb 0 3 true 8 0) demo).slot 0).metaAt 8 4).tbEdgeH = false := by decide

theorem test_markPb : (((after (.markPb 0 true false 1 2 0 0 8 8 (-3) 5 9 9) demo).slot 0).metaAt 7 7).mvL0 =
    ⟨-3, 5⟩ ∧ (((after (.markPb 0 true false 1 2 0 0 8 8 (-3) 5 9 9) demo).slot 0).metaAt 7 7).refSlotL1 = 0 := by
  decide

theorem test_setSao : ((after (.setSao 0 0 2 1 0 0 3 1 (-1) (-3)) demo).slot 0).saoAt 0 0 0 =
    ⟨.edge, 0, 1, 3, 1, -1, -3⟩ := by decide

theorem test_setScaling : ((after (.setScaling 0 1 0 7 6 115) demo).slot 0).scalingAt 1 0 7 6 = 115 := by decide

theorem test_coefWrite : ((after (.coefWrite 1 0 (-20)) demo).engine 0).coefAt 1 0 = -20 := by decide

theorem test_coefClear : ((after .coefClear (after (.coefWrite 1 0 (-20)) demo)).engine 0).coef = [] := by decide

theorem test_putSample : sampleNat (after (.putSample 0 1 3 2 200) demo) 0 .recon 1 3 2 = some 200 := by decide

theorem test_intraPred : sampleNat (after (.intraPred 0 2 2 34 0 0) demo) 0 .recon 2 3 3 = some 128 := by decide

theorem test_residual : sampleNat (after (.residual 0 0 2 false 4 0 0) (after (.coefWrite 0 0 64) demo)) 0 .recon 0 3 3 =
    some 144 := by decide

theorem test_residual_outside : ((after (.residual 0 0 2 false 4 0 0) (after (.coefWrite 4 0 1) demo)).engine 0).errCode =
    4 := by decide

theorem test_interPred_copy : sampleNat (after (.interPred 0 0 false 0 0 0 4 4 0 0 0 0)
    (after (.markPb 0 true false 1 0 0 0 4 4 0 0 0 0) demo)) 0 .recon 0 3 3 = some 77 := by decide

theorem test_interPred_warns : (after (.interPred 0 0 false 0 0 0 8 8 0 0 0 0) demo).warn = [1011] := by decide

theorem test_deblock_unmarked : (after (.deblock 0 false 0 0) demo).mem = demo.mem := by decide

theorem test_setProgress_decrease :
    ((after (.setProgress 0 1 0 0) (after (.setProgress 0 4 0 0) demo)).engine 0).errCode = 903 := by decide

theorem test_waitProgress_holds : after (.waitProgress 0 1 0 0) demo = demo := by decide

theorem test_waitProgress_decoded : ((after (.waitProgress 1 4 0 0) demo).engine 0).cmdCount = 1 := by decide

/-- Two 32 × 32 pictures of one format: slot 0 has CTBs of 16, the reference slot 1 one CTB of 32, complete. The block
at (16, 16) of slot 0 is predicted from slot 1. -/
def demoCtbSizes : State :=
  let g := { cfg420 with picWidthReg := 32, picHeightReg := 32 }
  after (.markPb 0 true false 1 0 16 16 8 8 0 0 0 0) ((State.reset.setSlot 0 (Slot.fresh g)).setSlot 1
    { Slot.fresh { g with formatReg := 0x1621 } with progress := [(0, .saoComplete)] })

/-- The wait of R253 is on the CTBs of the reference slot. -/
theorem test_ordered_reference_ctbs : ordered (.interPred 0 0 false 0 16 16 8 8 0 0 0 0) demoCtbSizes = true ∧
    checkRef demoCtbSizes 0 1 = .ok := by decide

/-- A queue of two warnings. -/
def demoWarned : State := { demo with params := { demo.params with warnDepth := 2 }, warn := [1011, 1012] }

theorem test_warning_overflow : (warning .bothPredflagsZero 0 demoWarned).warn = [1012, 1011] ∧
    (hostGetWarning (warning .bothPredflagsZero 0 demoWarned)).reply = .value 1001 := by decide

theorem test_window : (hostMemRead 0x0 4 demo).reply = .value 0x80808080 := by decide

theorem test_fetch : ∃ t, step (State.reset.withFetchWord 32 0) = .next t ∧ (t.engine 0).cmdCount = 1 :=
  ⟨_, rfl, by decide⟩

/-! ## Witnesses: a state and operands that meet the hypotheses of each statement

`demo` has slot 0 in flight and slot 1 decoded, so most statements are met at slot 0. Each theorem is named after its
statement; where a statement has clauses, each has its conjunct. -/

/-- `demo` with an unallocated slot 2 of valid configuration. -/
def demoFree : State := demo.setSlot 2 { Slot.reset with cfg := cfg420 }

/-- `demo` with a monochrome picture in flight in slot 2. -/
def demoMono : State := demo.setSlot 2 (Slot.fresh { cfg420 with formatReg := 0x1220 })

/-- `demo` when the queue of engine 0 holds `q` and the next move is `ev`. -/
def demoTurn (q : List Word) (ev : Event) : State :=
  { demo.setEngine 0 { demo.engine 0 with queue := q } with agenda := [ev] }

/-- `demo` with the block at (0, 0) predicted from the given lists; slot 3 is free. -/
def demoPb (pf0 pf1 : Bool) (ref0 ref1 : BitVec 5) : State := after (.markPb 0 pf0 pf1 ref0 ref1 0 0 8 8 0 0 0 0) demo

/-- `demoPb` when the reference slot 1 has another FLAGS register (SAO enabled). -/
def demoFlags (pf0 pf1 : Bool) (ref0 ref1 : BitVec 5) : State :=
  let s := demoPb pf0 pf1 ref0 ref1
  s.setSlot 1 { s.slot 1 with cfg := { cfg420 with flagsReg := 8 } }

/-- `demoPb` when the reference slot 1 is degraded. -/
def demoDegraded : State :=
  let s := demoPb true false 1 0
  s.setSlot 1 { s.slot 1 with integrity := .decodingErrors }

theorem inFlight_demo : InFlight demo 0 := ⟨by decide, by decide⟩

theorem planeReady_demo : PlaneReady demo 0 0 ∧ PlaneReady demo 0 2 :=
  ⟨⟨by decide, inFlight_demo, by decide⟩, ⟨by decide, inFlight_demo, by decide⟩⟩

theorem valid_demo : validCfg demo.params (demo.slot 0).cfg = none := by decide

theorem demo_memory : memWf demo.mem = true ∧ memPaired demo.mem = true := by decide +kernel

theorem demo_tables : ∀ n, (demo.slot n).tablesWf = true := by decide +kernel

theorem demo_records : ∀ n, (demo.slot n).recordsLegal demo.params = true := by decide +kernel

theorem demo_life : ∀ n, (demo.slot n).lifeLegal demo.params = true := by decide +kernel

theorem demo_engines : ∀ e, (demo.engine e).legal demo.params = true := by decide +kernel

theorem demo_params : demo.params.legal = true := by decide

theorem demo_warnings : demo.warn = [] := rfl

theorem demo_legal : demo.Legal :=
  ⟨demo_params, demo_memory.1, demo_memory.2, demo_tables, demo_records, demo_life, demo_engines, Nat.zero_le _,
    fun _ h => absurd h List.not_mem_nil⟩

theorem witness_StepRunsCommand :
    (demoTurn [0#32] (.engine 0)).nextEvent = .engine 0 ∧
    (0#5).toNat < (demoTurn [0#32] (.engine 0)).params.numEngines ∧
    ((demoTurn [0#32] (.engine 0)).engine 0).faulted = false ∧
    decode ((demoTurn [0#32] (.engine 0)).engine 0).queue = .ok .nop := by decide

theorem witness_TurnWithoutCommand :
    ((raise .illegalCommand (demoTurn [] (.engine 0))).nextEvent = .engine 0 ∧
      ((raise .illegalCommand (demoTurn [] (.engine 0))).engine 0).faulted = true) ∧
    decode ((demoTurn [0x00000001#32] (.engine 0)).engine 0).queue = .error .incomplete ∧
    decode ((demoTurn [0x000000FF#32] (.engine 0)).engine 0).queue = .error .unknownOpcode ∧
    decode ((demoTurn [0x00006021#32, 0#32] (.engine 0)).engine 0).queue = .error .badComponent ∧
    opField 0x00006021#32 = 0x21#8 := by decide

theorem witness_DecodeEncode : (Instr.setSao 31 2 3 31 65535 65535 (-1) (-1) (-1) (-1)).wellFormed = true := by decide

theorem witness_EncodeDecode : decode [0x1CE1000B#32, 0x00000073#32, 7#32] = .ok (.setScaling 0 1 0 7 7 115) := by decide

theorem witness_SlotOutOfRangeFaults : (Instr.picFree 16).wellFormed = true ∧ namedSlot (.picFree 16) = some 16 ∧
    demo.params.numSlots ≤ (16#5).toNat := by decide

theorem witness_CommonChecks :
    ((Instr.picDone 1).wellFormed = true ∧ namedSlot (.picDone 1) = some 1 ∧ (1#5).toNat < demo.params.numSlots ∧
      checksInFlight (.picDone 1) = true ∧ ¬ ((demo.slot 1).alloc = true ∧ (demo.slot 1).done = false)) ∧
    (¬ ((demo.slot 15).alloc = true ∧ (demo.slot 15).done = false)) ∧
    (demoMono.slot 2).alloc = true ∧ (demoMono.slot 2).done = false ∧ (demoMono.slot 2).cfg.chromaFormat = 0 ∧
    namedComponent (.putSample 2 1 0 0 0) = some 1 ∧ (Instr.putSample 2 1 0 0 0).wellFormed = true := by decide

theorem witness_QueuesNeverRewritten :
    (∃ t, exec .nop demo = .next t) ∧ ∃ t, hostStep (.memWrite 0 1 7) demo = .next t := ⟨⟨_, rfl⟩, ⟨_, rfl⟩⟩

theorem witness_ConfigLocked :
    (6#8).toNat ≤ 6 ∧ (0#5).toNat < demo.params.numSlots ∧ (demo.slot 0).alloc = true ∧ (demo.slot 1).alloc = true := by
  decide

theorem witness_ProgressMonotone :
    (∃ t, exec (.setProgress 0 4 0 0) demo = .next t) ∧
    (∃ t, exec (.picInit 2) demoFree = .next t ∧ t.me.cmdCount = demoFree.me.cmdCount + 1) ∧
    ∃ t, hostStep .reset demo = .next t := ⟨⟨_, rfl⟩, ⟨_, rfl, by decide⟩, ⟨_, rfl⟩⟩

theorem witness_SlotIsolation :
    (∃ t, exec (.setProgress 0 4 0 0) demo = .next t) ∧ namedSlot (.setProgress 0 4 0 0) ≠ some 1 :=
  ⟨⟨_, rfl⟩, by decide⟩

theorem witness_OnlySaoWritesOut :
    (∃ t, exec (.putSample 0 0 15 15 255) demo = .next t) ∧ ∃ t, exec (.sao 0 0 0) demo = .next t :=
  ⟨⟨_, rfl⟩, ⟨_, rfl⟩⟩

/-- A done picture, a warning, a prediction from a degraded picture, and the host's reset. -/
theorem witness_IntegrityTransitions :
    (∃ t, exec (.picDone 0) demo = .next t ∧ (t.slot 0).integrity ≠ (demo.slot 0).integrity) ∧
    (∃ t, exec (.interPred 0 0 false 0 0 0 8 8 0 0 0 0) demo = .next t ∧ (t.slot 0).integrity = .decodingErrors) ∧
    (∃ t, exec (.interPred 0 0 false 0 0 0 8 8 0 0 0 0) demoDegraded = .next t ∧
      (t.slot 0).integrity = .derivedFromErrors) ∧
    ∃ t, hostStep .reset demo = .next t ∧ (demo.slot 1).integrity = .decoded :=
  ⟨⟨_, rfl, by decide⟩, ⟨_, rfl, by decide⟩, ⟨_, rfl, by decide +kernel⟩, ⟨_, rfl, by decide⟩⟩

theorem witness_DecodedSlotFrozen :
    (demo.slot 1).alloc = true ∧ (demo.slot 1).done = true ∧ ∃ t, exec (.deblock 1 false 0 0) demo = .next t :=
  ⟨by decide, by decide, ⟨_, rfl⟩⟩

theorem witness_StepKeepsLegal : demo.Legal ∧ ∃ t, step { demo with agenda := [.host .getWarning] } = .next t :=
  ⟨demo_legal, ⟨_, rfl⟩⟩

theorem witness_ResetLegal : Params.default.legal = true ∧
    (⟨1, 1, 1, 1, 2, 8, 8, 8, 0, 0, 0⟩ : Params).legal = true := by decide

theorem witness_HostResetClears : (demoTurn [] (.host .reset)).nextEvent = .host .reset := by decide

theorem witness_SamplesInRange : demo.Legal ∧ ∃ t, exec (.putSample 0 0 15 15 255) demo = .next t :=
  ⟨demo_legal, ⟨_, rfl⟩⟩

theorem witness_RegWriteResult :
    (15#5).toNat < demo.params.numSlots ∧ (6#8).toNat ≤ 6 ∧ (demo.slot 15).alloc = false ∧ 6 < (7#8).toNat := by decide

theorem witness_PicInitResult : (2#5).toNat < demoFree.params.numSlots ∧ (demoFree.slot 2).alloc = false ∧
    validCfg demoFree.params (demoFree.slot 2).cfg = none := by decide

/-- The three integrities of a slot in flight. -/
theorem witness_PicDoneResult : (demo.slot 0).integrity = .notDecoded ∧
    InFlight (after (.interPred 0 0 false 0 0 0 8 8 0 0 0 0) demo) 0 ∧
    ((after (.interPred 0 0 false 0 0 0 8 8 0 0 0 0) demo).slot 0).integrity = .decodingErrors :=
  ⟨by decide, ⟨by decide, by decide⟩, by decide⟩

theorem witness_PicFreeResult : (demo.slot 1).alloc = true ∧ (demo.slot 15).alloc = false ∧
    (15#5).toNat < demo.params.numSlots := by decide

theorem witness_SetCtbResult : InFlight demo 0 ∧ (0#16).toNat < (demo.slot 0).cfg.widthInCtbs ∧
    (0#16).toNat < (demo.slot 0).cfg.heightInCtbs ∧
    (0#32).toNat < (demo.slot 0).cfg.widthInCtbs * (demo.slot 0).cfg.heightInCtbs ∧
    (65535#16).toNat < demo.params.maxSlices ∧ (65535#16).toNat < demo.params.maxTiles :=
  ⟨inFlight_demo, by decide, by decide, by decide, by decide, by decide⟩

theorem witness_SetSliceResult : InFlight demo 0 ∧ (65535#16).toNat < demo.params.maxSlices ∧
    -6 ≤ (-6#4 : BitVec 4).toInt ∧ (6#4).toInt ≤ 6 := ⟨inFlight_demo, by decide, by decide, by decide⟩

theorem witness_SetCuResult : InFlight demo 0 ∧ (4#3).toNat ≤ (demo.slot 0).cfg.log2Ctb ∧
    -(demo.slot 0).cfg.qpBdOffset 0 ≤ (0#7).toInt ∧ (51#7).toInt ≤ 51 ∧
    (8#16).toNat + 2 ^ (3#3).toNat ≤ (demo.slot 0).cfg.picWidth ∧ (8#16).toNat % 2 ^ (3#3).toNat = 0 ∧
    (8#16).toNat + 2 ^ (3#3).toNat ≤ (demo.slot 0).cfg.picHeight :=
  ⟨inFlight_demo, by decide, by decide, by decide, by decide, by decide, by decide⟩

theorem witness_MarkTbResult : InFlight demo 0 ∧ (12#16).toNat % 2 ^ (2#3).toNat = 0 ∧
    (12#16).toNat + 2 ^ (2#3).toNat ≤ (demo.slot 0).cfg.picWidth ∧
    (12#16).toNat + 2 ^ (2#3).toNat ≤ (demo.slot 0).cfg.picHeight :=
  ⟨inFlight_demo, by decide, by decide, by decide⟩

theorem pbInPicture_demo : PbInPicture (demo.slot 0).cfg 8 0 8 16 := by unfold PbInPicture; decide

theorem witness_MarkPbResult : InFlight demo 0 ∧
    PbInPicture (demo.slot 0).cfg (8#16).toNat (0#16).toNat (8#16).toNat (16#16).toNat ∧
    (15#5).toNat < demo.params.numSlots := ⟨inFlight_demo, pbInPicture_demo, by decide⟩

theorem witness_SetSaoResult : PlaneReady demo 0 2 ∧ (2#2) ≠ 3 ∧ ((2#2 : BitVec 2) = 2 → (3#5).toNat ≤ 3) ∧
    (0#16).toNat < (demo.slot 0).cfg.widthInCtbs ∧ (0#16).toNat < (demo.slot 0).cfg.heightInCtbs :=
  ⟨planeReady_demo.2, by decide, by decide, by decide, by decide⟩

theorem witness_SetScalingResult : InFlight demo 0 ∧ (5#3).toNat < 6 ∧ (3#5).toNat < 4 * 2 ^ (0#2).toNat ∧
    (31#5).toNat < 4 * 2 ^ (3#2).toNat ∧ (1#8) ≠ 0 := ⟨inFlight_demo, by decide, by decide, by decide, by decide⟩

theorem witness_PutSampleResult : PlaneReady demo 0 2 ∧ (7#16).toNat < (demo.slot 0).cfg.planeW (2#2).toNat ∧
    (7#16).toNat < (demo.slot 0).cfg.planeH (2#2).toNat ∧
    (255#16).toNat < 2 ^ (demo.slot 0).cfg.bitDepth (2#2).toNat ∧
    2 ^ (demo.slot 0).cfg.bitDepth (2#2).toNat ≤ (256#16).toNat :=
  ⟨planeReady_demo.2, by decide, by decide, by decide, by decide⟩

theorem blockInPlane_demo : BlockInPlane (demo.slot 0).cfg 0 2 12 12 ∧ BlockInPlane (demo.slot 0).cfg 2 3 0 0 := by
  unfold BlockInPlane; decide

theorem witness_IntraPredResult : PlaneReady demo 0 2 ∧
    BlockInPlane (demo.slot 0).cfg (2#2).toNat (3#3).toNat (0#16).toNat (0#16).toNat ∧ (34#6).toNat ≤ 34 :=
  ⟨planeReady_demo.2, blockInPlane_demo.2, by decide⟩

/-- The hypotheses on levels are met by the empty buffer and, for the frame of a 4 × 4 block, by a level inside. -/
theorem witness_ResidualResult : PlaneReady demo 0 0 ∧
    BlockInPlane (demo.slot 0).cfg (0#2).toNat (2#3).toNat (12#16).toNat (12#16).toNat ∧
    ((51#7).toNat : Int) ≤ 51 + (demo.slot 0).cfg.qpBdOffset (0#2).toNat ∧
    (∀ a, a < 32 → ∀ b, b < 32 → (4 ≤ a ∨ 4 ≤ b) → (after (.coefWrite 3 3 9) demo).me.coefAt a b = 0) :=
  ⟨planeReady_demo.1, blockInPlane_demo.1, by decide, by decide⟩

/-- The levels of a 4 × 4 block are 0 beside a level outside it; the block completes when the whole buffer is 0. -/
theorem witness_ResidualZero : validCfg demo.params (demo.slot 0).cfg = none ∧
    (∀ a, a < 4 → ∀ b, b < 4 → (after (.coefWrite 4 0 1) demo).me.coefAt a b = 0) ∧
    (∀ a, a < 32 → ∀ b, b < 32 → demo.me.coefAt a b = 0) ∧ sampleNat demo 0 .recon 0 3 3 = some 128 :=
  ⟨valid_demo, by decide, by decide, by decide⟩

theorem witness_InterPredResult : PlaneReady (demoPb true true 1 1) 0 0 ∧
    PbInPicture ((demoPb true true 1 1).slot 0).cfg 0 0 8 8 ∧
    (((demoPb true true 1 1).slot 0).metaAt 0 0).predFlagL0 = true ∧
    (((demoPb true true 1 1).slot 0).metaAt 0 0).predFlagL1 = true ∧
    (((demoPb true true 1 1).slot 0).metaAt 0 0).refSlotL0 = 1 ∧
    (((demoPb true true 1 1).slot 0).metaAt 0 0).refSlotL1 = 1 ∧ ((demoPb true true 1 1).slot 1).alloc = true ∧
    sameFormat ((demoPb true true 1 1).slot 1).cfg ((demoPb true true 1 1).slot 0).cfg = true :=
  ⟨⟨by decide, ⟨by decide, by decide⟩, by decide⟩, by unfold PbInPicture; decide, by decide, by decide, by decide,
    by decide, by decide, by decide⟩

/-- The reference differs from the slot in FLAGS alone, as in the variant of P3 (95 section 1); either list. -/
theorem witness_InterZeroMotion :
    (PlaneReady (demoFlags true false 1 0) 0 0 ∧ PbInPicture ((demoFlags true false 1 0).slot 0).cfg 0 0 8 8 ∧
      RefGood (demoFlags true false 1 0) 0 1 ∧ (((demoFlags true false 1 0).slot 0).metaAt 0 0).predFlagL0 = true ∧
      (((demoFlags true false 1 0).slot 0).metaAt 0 0).predFlagL1 = false ∧
      (((demoFlags true false 1 0).slot 0).metaAt 0 0).mvL0 = ⟨0, 0⟩ ∧
      (((demoFlags true false 1 0).slot 0).metaAt 0 0).refSlotL0 = 1 ∧
      ((demoFlags true false 1 0).slot 1).cfg ≠ ((demoFlags true false 1 0).slot 0).cfg ∧
      validCfg (demoFlags true false 1 0).params ((demoFlags true false 1 0).slot 0).cfg = none ∧
      sampleNat (demoFlags true false 1 0) 1 .out 0 3 3 = some 77) ∧
    (PlaneReady (demoFlags false true 0 1) 0 0 ∧ RefGood (demoFlags false true 0 1) 0 1 ∧
      (((demoFlags false true 0 1).slot 0).metaAt 0 0).predFlagL0 = false ∧
      (((demoFlags false true 0 1).slot 0).metaAt 0 0).predFlagL1 = true ∧
      (((demoFlags false true 0 1).slot 0).metaAt 0 0).mvL1 = ⟨0, 0⟩ ∧
      (((demoFlags false true 0 1).slot 0).metaAt 0 0).refSlotL1 = 1) :=
  ⟨⟨⟨by decide, ⟨by decide, by decide⟩, by decide⟩, by unfold PbInPicture; decide, by unfold RefGood; decide, by decide,
      by decide, by decide, by decide, by decide, by decide, by decide⟩,
    ⟨by decide, ⟨by decide, by decide⟩, by decide⟩, by unfold RefGood; decide, by decide, by decide, by decide, by decide⟩

/-- The four ways to a warning, both states of the queue, and the three ways to fault 8, in either list. -/
theorem witness_InterWarns :
    (PlaneReady demo 0 2 ∧ PbInPicture (demo.slot 0).cfg 8 0 8 16 ∧ ((demo.slot 0).metaAt 8 0).predFlagL0 = false ∧
      ((demo.slot 0).metaAt 8 0).predFlagL1 = false) ∧
    (PlaneReady (demoPb true true 15 0) 0 0 ∧ PbInPicture ((demoPb true true 15 0).slot 0).cfg 0 0 8 8 ∧
      RefMissing (demoPb true true 15 0) 0 15 ∧ (((demoPb true true 15 0).slot 0).metaAt 0 0).predFlagL0 = true ∧
      (((demoPb true true 15 0).slot 0).metaAt 0 0).refSlotL0 = 15) ∧
    (PlaneReady (demoPb false true 0 3) 0 0 ∧ RefMissing (demoPb false true 0 3) 0 3 ∧
      (((demoPb false true 0 3).slot 0).metaAt 0 0).predFlagL0 = false ∧
      (((demoPb false true 0 3).slot 0).metaAt 0 0).predFlagL1 = true ∧
      (((demoPb false true 0 3).slot 0).metaAt 0 0).refSlotL1 = 3) ∧
    (PlaneReady (demoPb true true 1 3) 0 0 ∧ RefGood (demoPb true true 1 3) 0 1 ∧ RefMissing (demoPb true true 1 3) 0 3 ∧
      (((demoPb true true 1 3).slot 0).metaAt 0 0).refSlotL0 = 1 ∧
      (((demoPb true true 1 3).slot 0).metaAt 0 0).refSlotL1 = 3) ∧
    demo.warn.length < demo.params.warnDepth ∧ demoWarned.params.warnDepth ≤ demoWarned.warn.length ∧
    (RefBad (demoPb true false 0 0) 0 0 ∧ PlaneReady (demoPb true false 0 0) 0 0 ∧
      (((demoPb true false 0 0).slot 0).metaAt 0 0).predFlagL0 = true ∧
      (((demoPb true false 0 0).slot 0).metaAt 0 0).refSlotL0 = 0) ∧
    RefBad { demo with params := { demo.params with numSlots := 1 } } 0 1 ∧
    (RefBad demoMono 0 2 ∧ RefGood demoMono 0 1) :=
  ⟨⟨planeReady_demo.2, pbInPicture_demo, by decide, by decide⟩,
    ⟨⟨by decide, ⟨by decide, by decide⟩, by decide⟩, by unfold PbInPicture; decide, by unfold RefMissing; decide,
      by decide, by decide⟩,
    ⟨⟨by decide, ⟨by decide, by decide⟩, by decide⟩, by unfold RefMissing; decide, by decide, by decide, by decide⟩,
    ⟨⟨by decide, ⟨by decide, by decide⟩, by decide⟩, by unfold RefGood; decide, by unfold RefMissing; decide, by decide,
      by decide⟩, by decide, by decide,
    ⟨.inr (.inl rfl), ⟨by decide, ⟨by decide, by decide⟩, by decide⟩, by decide, by decide⟩, .inl (by decide),
    ⟨.inr (.inr (by decide)), by unfold RefGood; decide⟩⟩

/-- For DeblockResult, SaoResult and SaoOff. -/
theorem witness_DeblockResult_SaoResult_SaoOff : InFlight demo 0 ∧ validCfg demo.params (demo.slot 0).cfg = none ∧
    (0#16).toNat < (demo.slot 0).cfg.widthInCtbs ∧ (0#16).toNat < (demo.slot 0).cfg.heightInCtbs ∧
    (demo.slot 0).cfg.saoEnabled = false := ⟨inFlight_demo, valid_demo, by decide, by decide, by decide⟩

/-- An edge at x = 8 of an intra picture: the command filters samples. -/
theorem witness_DeblockDisjoint :
    ((deblockWrites (after (.markTb 0 3 false 8 0) (after (.setCu 0 4 true false false 40 0 0)
      (demo.setSamples ((List.range 8).flatMap fun y => (List.range 8).map fun x =>
        (sampleAddr 0 .recon 0 (4 + x) y, if x < 4 then 100 else 110))))) 0 false 0 0).take 3).map Prod.snd =
      [104, 103, 101] := by decide +kernel

/-- An intra picture in CTBs of 16 with an edge at x = 8 in its top 8 rows, 100 left of it and 110 right of it in the
four rows and `2 r` columns around it of plane `c`; its format word is `fmt`. -/
def demoEdge (fmt : Word) (c r : Nat) : State :=
  (after (.markTb 0 3 false 8 0) (after (.setCu 0 4 true false false 40 0 0) (State.reset.setSlot 0
    { Slot.fresh { cfg420 with formatReg := fmt } with ctbs := [(0, ⟨0, 0, 0, true⟩)] }))).setSamples
      ((List.range 4).flatMap fun y => (List.range (2 * r)).map fun x =>
        (sampleAddr 0 .recon c (8 - r + x) y, if x < r then 100 else 110))

/-- The blocks of `demoEdge` on both sides of its edge. -/
def demoEdgeP : MetaRec := { MetaRec.reset with isIntra := true, qpY := 40, cuSet := true }

/-- The lines of `demoEdge`. -/
def edgeLines : Nat → Int → Int := fun _ d => if d < 0 then 100 else 110

theorem demoEdge_segment (fmt : Word) (c r : Nat) (h : fmt = 0x1221 ∧ c = 0 ∧ r = 4 ∨ fmt = 0x1223 ∧ c = 1 ∧ r = 2) :
    SegmentAt ((demoEdge fmt c r).slot 0) false 8 0 demoEdgeP { demoEdgeP with tbEdgeV := true, tbEdgeH := true }
      SliceRec.reset 2 := by
  rcases h with ⟨rfl, rfl, rfl⟩ | ⟨rfl, rfl, rfl⟩ <;>
    exact ⟨by decide, by decide, by decide, by decide, by decide, by decide, by decide, by decide, by decide, by decide,
      by rw [StrengthIs, if_pos (.inl rfl)]⟩

/-- A luma segment that the rules filter (4:2:0), and a chroma one (4:4:4). -/
theorem witness_DeblockResult :
    (InFlight (demoEdge 0x1221 0 4) 0 ∧
      validCfg (demoEdge 0x1221 0 4).params ((demoEdge 0x1221 0 4).slot 0).cfg = none ∧
      SegmentOfCtb ((demoEdge 0x1221 0 4).slot 0).cfg false 0 8 0 0 0 ∧
      LinesAre (demoEdge 0x1221 0 4) 0 false 0 8 0 4 edgeLines ∧
      ¬ Protected ((demoEdge 0x1221 0 4).slot 0).cfg demoEdgeP) ∧
    (InFlight (demoEdge 0x1223 1 2) 0 ∧
      validCfg (demoEdge 0x1223 1 2).params ((demoEdge 0x1223 1 2).slot 0).cfg = none ∧
      ((demoEdge 0x1223 1 2).slot 0).cfg.planeExists 1 = true ∧
      SegmentOfCtb ((demoEdge 0x1223 1 2).slot 0).cfg false 1 8 0 0 0 ∧
      LinesAre (demoEdge 0x1223 1 2) 0 false 1 8 0 2 edgeLines) := by
  refine ⟨⟨⟨by decide, by decide⟩, by decide, by unfold SegmentOfCtb; decide, ?_, by unfold Protected; decide⟩,
    ⟨by decide, by decide⟩, by decide, by decide, by unfold SegmentOfCtb; decide, ?_⟩ <;>
  · intro k d hk h1 h2
    interval_cases k <;> interval_cases d <;> exact ⟨by decide, by decide, by decide⟩

/-- R189: flat sides at QP 40 with strength 2, and in chroma at tC 3. -/
theorem test_rule_filters : [-4, -3, -2, -1, 0, 1, 2, 3].map (ruleLuma 8 2 42 7 edgeLines 0) =
    [100, 101, 103, 104, 106, 108, 109, 110] ∧
    [-2, -1, 0, 1].map (ruleChroma 8 3 (edgeLines 0)) = [100, 103, 107, 110] := by decide

theorem witness_DeblockDisabled : InFlight (after (.setSlice 0 0 true false false false 0 0) demo) 0 ∧
    validCfg (after (.setSlice 0 0 true false false false 0 0) demo).params
      ((after (.setSlice 0 0 true false false false 0 0) demo).slot 0).cfg = none ∧
    (((after (.setSlice 0 0 true false false false 0 0) demo).slot 0).sliceAt
      (((after (.setSlice 0 0 true false false false 0 0) demo).slot 0).ctbAt 0 0).sliceIdx).deblockDisabled = true :=
  ⟨⟨by decide, by decide⟩, by decide, by decide⟩

theorem witness_SaoClasses :
    (0 : Nat) / 2 ^ (8 - 5) = (2 + (30#5).toNat) % 32 ∧ (255 : Nat) / 2 ^ (8 - 5) = (1 + (30#5).toNat) % 32 ∧
    (∀ k, k < 4 → (16 : Nat) / 2 ^ (8 - 5) ≠ (k + (30#5).toNat) % 32) := by decide

theorem witness_SetProgressResult : InFlight demo 0 ∧ (4#3).toNat ≤ 4 ∧
    ((demo.slot 0).progressAt 0 0).toNat ≤ (0#3).toNat ∧
    (3#3).toNat < (((after (.setProgress 0 4 0 0) demo).slot 0).progressAt 0 0).toNat ∧
    InFlight (after (.setProgress 0 4 0 0) demo) 0 :=
  ⟨inFlight_demo, by decide, by decide, by decide, ⟨by decide, by decide⟩⟩

theorem witness_WaitProgressResult : (demo.slot 0).alloc = true ∧
    (0#3).toNat ≤ ((demo.slot 0).progressAt 0 0).toNat ∧ ((demo.slot 0).progressAt 0 0).toNat < (1#3).toNat ∧
    (4#3).toNat ≤ ((demo.slot 1).progressAt 0 0).toNat ∧
    decode ((demoTurn [0x00010041#32, 0#32] (.engine 0)).engine 0).queue = .ok (.waitProgress 0 1 0 0) ∧
    (15#5).toNat < demo.params.numSlots ∧ (demo.slot 15).alloc = false := by decide

/-- One command of each kind with a place, just outside the 16 × 16 picture of `demo`. -/
def outsideDemo : List Instr :=
  [.setCtb 0 1 0 0 0 0, .setCu 0 3 true false false 51 16 0, .markTb 0 2 false 0 16,
   .markPb 0 true false 15 0 12 0 8 8 0 0 0 0, .setSao 0 2 2 3 0 1 0 0 0 0, .putSample 0 2 8 7 256,
   .intraPred 0 1 2 34 8 4, .residual 0 0 5 true 127 0 0, .interPred 0 0 true 7 12 12 8 4 0 0 0 0,
   .deblock 0 true 1 0, .sao 0 0 1, .setProgress 0 4 1 0, .waitProgress 0 4 0 1]

theorem witness_FaultCodes_place : ∀ i ∈ outsideDemo, namedSlot i = some 0 ∧ ReachesPlaceCheck demo i ∧
    OutsidePicture (demo.slot 0).cfg i := by
  simp only [outsideDemo, List.forall_mem_cons, namedSlot, ReachesPlaceCheck, OutsidePicture, PlaneReady, InFlight,
    BlockAligned, PbAligned, CtbOutside, BlockOutside, List.not_mem_nil, false_implies, implies_true, and_true, true_and]
  refine ⟨?_, ?_, ?_, ?_, ?_, ?_, ?_, ?_, ?_, ?_, ?_, ?_, ?_⟩ <;> decide

/-- `demo` with 2 slots, 4 slices and 4 tiles. -/
def demoSmall : State := { demo with params := { demo.params with numSlots := 2, maxSlices := 4, maxTiles := 4 } }

/-- Each checked field of R66 one step outside its range; slot 0 has 8-bit samples and one CTB of 16. -/
def outOfRangeDemo : List Instr :=
  [.regWrite 1 7 0, .setCtb 0 0 0 1 3 3, .setCtb 0 0 0 0 3 4, .setSlice 0 3 false false false false (-7) 0,
   .setSlice 0 3 false false false false 7 0, .setSlice 0 3 false false false false 6 (-7),
   .setSlice 0 3 false false false false (-6) 7, .setCu 0 2 true false false 0 0 0, .setCu 0 5 true false false 0 0 0,
   .setCu 0 3 true false false 0 4 0, .setCu 0 3 true false false 0 0 4, .setCu 0 3 true false false (-1) 0 0,
   .setCu 0 3 true false false 52 0 0, .setCu 0 3 false true false 51 0 0]

/-- The same of the other commands. -/
def outOfRangeBlocksDemo : List Instr :=
  [.markTb 0 1 false 0 0, .markTb 0 6 false 0 0, .markTb 0 3 false 4 0, .markPb 0 true false 0 0 2 0 8 8 0 0 0 0,
   .markPb 0 true false 0 0 0 0 68 8 0 0 0 0, .markPb 0 false false 2 0 0 0 8 8 0 0 0 0,
   .markPb 0 false false 0 2 0 0 8 8 0 0 0 0, .setSao 0 0 3 0 0 0 0 0 0 0, .setSao 0 2 2 4 0 0 0 0 0 0,
   .setScaling 0 0 6 0 0 1, .setScaling 0 0 0 4 0 1, .setScaling 0 1 0 0 8 1, .setScaling 0 0 0 0 0 0,
   .putSample 0 0 15 15 256, .intraPred 0 0 1 0 0 0, .intraPred 0 0 2 35 0 0, .intraPred 0 0 3 0 0 4,
   .residual 0 0 6 false 0 0 0, .residual 0 0 3 false 0 4 0, .residual 0 0 2 false 52 0 0, .residual 0 0 3 true 51 0 0,
   .interPred 0 0 false 0 2 0 8 8 0 0 0 0, .interPred 0 0 false 0 0 0 8 0 0 0 0 0, .setProgress 0 5 0 0,
   .waitProgress 0 5 0 0]

theorem witness_FaultCodes_range :
    (∀ i ∈ outOfRangeDemo, FieldOutOfRange demoSmall i) ∧ ∀ i ∈ outOfRangeBlocksDemo, FieldOutOfRange demoSmall i := by
  simp only [outOfRangeDemo, outOfRangeBlocksDemo, List.forall_mem_cons, FieldOutOfRange, PlaneReady, InFlight,
    BlockAligned, PbAligned, CtbOutside, BlockOutside, List.not_mem_nil, false_implies, implies_true, and_true]
  repeat' apply And.intro
  all_goals decide

/-- One state for each other clause: a level at column 4 and one at row 4, a full slot, both faults of the
configuration check, and a slice index one too large. -/
theorem witness_FaultCodes :
    (PlaneReady (after (.coefWrite 4 0 1) demo) 0 0 ∧ (after (.coefWrite 4 0 1) demo).me.coefAt 4 0 ≠ 0 ∧
      BlockInPlane ((after (.coefWrite 4 0 1) demo).slot 0).cfg 0 2 12 12) ∧
    (after (.coefWrite 0 4 1) demo).me.coefAt 0 4 ≠ 0 ∧ (demo.slot 0).alloc = true ∧
    ((demo.slot 15).alloc = false ∧ validCfg demo.params (demo.slot 15).cfg = some .codedParameterOutOfRange ∧
      validCfg { demo.params with maxPicWidth := 8 } (demoFree.slot 2).cfg = some .outOfMemory) ∧
    InFlight { demo with params := { demo.params with maxSlices := 4 } } 0 ∧ 4 ≤ (4#16).toNat ∧
    (0#16).toNat < (demo.slot 0).cfg.widthInCtbs ∧ (0#16).toNat < (demo.slot 0).cfg.heightInCtbs ∧
    (0#32).toNat < (demo.slot 0).cfg.widthInCtbs * (demo.slot 0).cfg.heightInCtbs :=
  ⟨⟨⟨by decide, ⟨by decide, by decide⟩, by decide⟩, by decide, by unfold BlockInPlane; decide⟩, by decide, by decide,
    ⟨by decide, by decide, by decide⟩, ⟨by decide, by decide⟩, by decide, by decide, by decide, by decide⟩

theorem witness_ResidualFlatDc : (residualRows 8 2 4 false false .dct flat16 (oneLevel 0 0 (-1024))).getD 3 [] =
    List.replicate 4 (shr (shr (32 * (-1024) * 64 + 64) 7 * 64 + 2048) 12) := by decide

theorem witness_IntraFlat : (0 : Int) ≤ 255 ∧ (255 : Int) < 2 ^ cfg420.bitDepth 0 := by decide

/-- A picture whose CTBs are not set has no usable reference. -/
theorem witness_IntraNoNeighbour : PlaneReady (demo.setSlot 0 (Slot.fresh cfg420)) 0 0 ∧
    validCfg demo.params cfg420 = none ∧ BlockInPlane cfg420 0 2 12 12 ∧
    ∀ o : Nat, o < 4 * 2 ^ (2#3).toNat + 1 →
      refUsable ((demo.setSlot 0 (Slot.fresh cfg420)).slot 0) (12 * 1) (12 * 1)
        ((12 + (refOffset (2 ^ (2#3).toNat) o).1) * 1) ((12 + (refOffset (2 ^ (2#3).toNat) o).2) * 1) = false :=
  ⟨⟨by decide, ⟨by decide, by decide⟩, by decide⟩, by decide, by unfold BlockInPlane; decide, by decide⟩

/-- The samples of the block at (12, 12) itself are no reference of it. -/
theorem witness_IntraIgnoresUnavailable : PlaneReady demo 0 0 ∧ BlockInPlane (demo.slot 0).cfg 0 2 12 12 ∧
    ∀ o : Nat, o < 17 →
      memSample? (memSetSample demo.mem (sampleAddr 0 .recon 0 12 12) 9)
        (sampleAddr 0 .recon 0 (12 + (refOffset 4 o).1).toNat (12 + (refOffset 4 o).2).toNat) =
      memSample? demo.mem (sampleAddr 0 .recon 0 (12 + (refOffset 4 o).1).toNat (12 + (refOffset 4 o).2).toNat) :=
  ⟨planeReady_demo.1, blockInPlane_demo.1, by decide⟩

theorem witness_GetWarning : (demoTurn [] (.host .getWarning)).nextEvent = .host .getWarning ∧
    demo.warnOverflow = false ∧ demo.warn = [] ∧ demoWarned.warn = 1011 :: [1012] ∧
    (warning .bothPredflagsZero 0 demoWarned).warnOverflow = true := by decide

/-- A full queue and one with room; a held engine; CTBs inside and outside, of an allocated slot and a free one. -/
theorem witness_HostRegisters : (31#5).toNat < demo.params.numEngines ∧
    (demo.engine 31).queue.length < demo.params.queueDepth ∧
    demo.params.queueDepth ≤ ((demoTurn (List.replicate 64 0) (.engine 0)).engine 0).queue.length ∧
    (demoTurn [0x00010041#32, 0#32] (.engine 0)).engineState 0 = .held ∧
    (demoTurn [0x00000041#32, 0#32] (.engine 0)).engineState 0 = .running ∧
    (15#5).toNat < demo.params.numSlots ∧ (demo.slot 15).alloc = false ∧ (demo.slot 1).alloc = true ∧
    (demo.slot 1).cfg.widthInCtbs = 1 ∧ (demo.slot 1).cfg.heightInCtbs = 1 := by decide

theorem witness_MemWriteRead : demo.windowRefuses 0xC 4 = false ∧
    (∀ b ∈ demo.windowBytes 0xC 4, b ≠ .padding) := by decide

/-- An access one byte past the window of the 16 × 16 luma plane, and one misaligned. -/
theorem witness_WindowRefusal : demo.windowByte 0 .recon 0 256 = .outside ∧ (0x1 : BitVec 40).toNat % 2 ^ 32 % 2 ≠ 0 ∧
    demo.windowByte 0 .recon 3 0 = .outside ∧ demo.windowByte 16 .recon 0 0 = .outside := by decide

/-! ## A weakly fair run in which a wait completes -/

/-- One engine, with a `WAIT_PROGRESS` whose condition is true. -/
def waitStart : State :=
  ((State.resetWith { Params.default with numEngines := 1 }).setSlot 0 (Slot.fresh cfg420)).setEngine 0
    { Engine.reset with queue := [0x00000041#32, 0#32] }

/-- The run: the wait completes at once, and then the engine idles. -/
def waitRun : Nat → State
  | 0 => waitStart
  | k + 1 => { waitStart.setEngine 0 { Engine.reset with cmdCount := 1 } with ticks := k + 1 }

theorem waitRun_nextEvent (k : Nat) : (waitRun k).nextEvent = .engine 0 := by
  cases k with
  | zero => exact congrArg (fun m => Event.engine (BitVec.ofNat 5 m)) (Nat.mod_one _)
  | succ k => exact congrArg (fun m => Event.engine (BitVec.ofNat 5 m)) (Nat.mod_one _)

theorem waitRun_isRun : IsRun waitRun := by
  intro k
  unfold step
  rw [waitRun_nextEvent]
  cases k with
  | zero => rfl
  | succ k => rfl

theorem waitRun_idle (k : Nat) (e : BitVec 5) (h : e ≠ 0) : (waitRun k).engineState e ≠ .running := by
  cases k with
  | zero => revert e; decide
  | succ k =>
    show (waitRun 1).engineState e ≠ .running
    revert e; decide

theorem waitRun_fair : WeaklyFair waitRun := by
  intro e k h
  by_cases he : e = 0
  · exact ⟨k, Nat.le_refl k, by rw [waitRun_nextEvent, he]⟩
  · exact absurd (h k (Nat.le_refl k)) (waitRun_idle k e he)

theorem witness_HeldEventually : IsRun waitRun ∧ WeaklyFair waitRun ∧ (0#5).toNat < (waitRun 0).params.numEngines ∧
    ∀ j, 0 ≤ j → (∀ m, 0 ≤ m → m < j → (waitRun m).nextEvent ≠ .engine 0) →
      ((waitRun j).engine 0).faulted = false ∧ decode ((waitRun j).engine 0).queue = .ok (.waitProgress 0 0 0 0) ∧
      waitReached 0 0 0 0 (waitRun j) = .ok true := by
  refine ⟨waitRun_isRun, waitRun_fair, by decide, fun j _ h => ?_⟩
  cases j with
  | zero => exact ⟨by decide, by decide, by decide⟩
  | succ j => exact absurd (waitRun_nextEvent 0) (h 0 (Nat.le_refl 0) (Nat.succ_pos j))

end Sys2Proof.Tests
end

namespace Sys2Proof.Machine

/-! ## What a command that completes has done

`exec` is inverted once: `exec_ending` says how a command can end, `Effect` what a completed command did to the state
before its words left the queue. The frame and invariant statements are case analyses of these. -/

/-- What a completed command on slot `n` can leave in the slot: its life cycle, registers and tables. The integrity
tag that `INTER_PRED` writes is in `Effect`. -/
inductive SlotEdit (s : State) (n : BitVec 5) : Instr → Slot → Prop
  | regWrite (reg : BitVec 8) (value : Word) (free : (s.slot n).alloc = false) :
      SlotEdit s n (.regWrite n reg value) { s.slot n with cfg := (s.slot n).cfg.write reg value }
  | picInit (free : (s.slot n).alloc = false) (valid : validCfg s.params (s.slot n).cfg = none) :
      SlotEdit s n (.picInit n) (Slot.fresh (s.slot n).cfg)
  | picDone (flight : InFlight s n) :
      SlotEdit s n (.picDone n) { s.slot n with done := true, integrity := (s.slot n).integrity.completed }
  | picFree (held : (s.slot n).alloc = true) : SlotEdit s n (.picFree n) { s.slot n with alloc := false }
  | setCtb (rx ry : BitVec 16) (addr : BitVec 32) (slice tile : BitVec 16) (flight : InFlight s n)
      (sliceOk : slice.toNat < s.params.maxSlices) (tileOk : tile.toNat < s.params.maxTiles) :
      SlotEdit s n (.setCtb n rx ry addr slice tile) { s.slot n with
        ctbs := tableSet CtbRec.reset (s.slot n).ctbs (cellKey rx.toNat ry.toNat) ⟨addr, slice, tile, true⟩ }
  | setSlice (idx : BitVec 16) (dbkDis lfAcross saoL saoC : Bool) (beta tc : BitVec 4) (flight : InFlight s n)
      (betaOk : sliceOffsetOk beta = true) (tcOk : sliceOffsetOk tc = true) :
      SlotEdit s n (.setSlice n idx dbkDis lfAcross saoL saoC beta tc) { s.slot n with
        slices := tableSet SliceRec.reset (s.slot n).slices idx.toNat ⟨dbkDis, lfAcross, saoL, saoC, beta, tc⟩ }
  | setCu (k : BitVec 3) (intra pcm bypass : Bool) (q : BitVec 7) (x y : BitVec 16) (flight : InFlight s n)
      (qpOk : -(s.slot n).cfg.qpBdOffset 0 ≤ q.toInt ∧ q.toInt ≤ 51) (pcmOk : pcm = true → intra = true) :
      SlotEdit s n (.setCu n k intra pcm bypass q x y) ((s.slot n).modifyBlocks x.toNat y.toNat (2 ^ k.toNat)
        (2 ^ k.toNat) fun m => m.withCu intra pcm bypass q)
  | markTb (k : BitVec 3) (nz : Bool) (x y : BitVec 16) (flight : InFlight s n) :
      SlotEdit s n (.markTb n k nz x y) ((s.slot n).markedTb x.toNat y.toNat (2 ^ k.toNat) nz)
  | markPb (pf0 pf1 : Bool) (ref0 ref1 : BitVec 5) (x y w h mv0x mv0y mv1x mv1y : BitVec 16) (flight : InFlight s n)
      (ref0Ok : ref0.toNat < s.params.numSlots) (ref1Ok : ref1.toNat < s.params.numSlots) :
      SlotEdit s n (.markPb n pf0 pf1 ref0 ref1 x y w h mv0x mv0y mv1x mv1y)
        ((s.slot n).markedPb x.toNat y.toNat w.toNat h.toNat pf0 pf1 ref0 ref1 ⟨mv0x, mv0y⟩ ⟨mv1x, mv1y⟩)
  | setSao (c ty : BitVec 2) (pos : BitVec 5) (rx ry : BitVec 16) (o1 o2 o3 o4 : BitVec 8) (flight : InFlight s n) :
      SlotEdit s n (.setSao n c ty pos rx ry o1 o2 o3 o4) { s.slot n with
        saos := tableSet SaoRec.reset (s.slot n).saos (saoKey c.toNat rx.toNat ry.toNat)
          (saoRecord ty pos o1 o2 o3 o4) }
  | setScaling (z : BitVec 2) (m : BitVec 3) (x y : BitVec 5) (v : BitVec 8) (flight : InFlight s n) (valueOk : v ≠ 0) :
      SlotEdit s n (.setScaling n z m x y v) { s.slot n with
        scaling := tableSet scalingReset (s.slot n).scaling (scalingKey z.toNat m.toNat x.toNat y.toNat) v }
  | setProgress (value : BitVec 3) (rx ry : BitVec 16) (v : Progress) (flight : InFlight s n)
      (named : progressOf value = some v) (raised : ((s.slot n).progressAt rx.toNat ry.toNat).toNat ≤ v.toNat) :
      SlotEdit s n (.setProgress n value rx ry) { s.slot n with
        progress := tableSet Progress.none (s.slot n).progress (cellKey rx.toNat ry.toNat) v }

/-- The component samples a completed command writes on slot `n`, in order, with the checks it passed. -/
inductive SampleWrites (s : State) (n : BitVec 5) : Instr → List (Nat × Int) → Prop
  | putSample (c : BitVec 2) (x y v : BitVec 16) (ready : PlaneReady s n c)
      (depth : v.toNat < 2 ^ (s.slot n).cfg.bitDepth c.toNat) :
      SampleWrites s n (.putSample n c x y v) [(sampleAddr n .recon c.toNat x.toNat y.toNat, Int.ofNat v.toNat)]
  | intraPred (c : BitVec 2) (k : BitVec 3) (mode : BitVec 6) (x y : BitVec 16) (ready : PlaneReady s n c)
      (block : BlockInPlane (s.slot n).cfg c.toNat k.toNat x.toNat y.toNat) :
      SampleWrites s n (.intraPred n c k mode x y) (blockWrites n .recon c.toNat x.toNat y.toNat (2 ^ k.toNat)
        (2 ^ k.toNat) (predictedSample (intraRefs (s.slot n).cfg
          (references s n c.toNat x.toNat y.toNat (2 ^ k.toNat)) c.toNat k.toNat mode.toNat)
          ((s.slot n).cfg.bitDepth c.toNat) c.toNat k.toNat mode.toNat))
  | residual (c : BitVec 2) (k : BitVec 3) (tskip : Bool) (qp : BitVec 7) (x y : BitVec 16) (ready : PlaneReady s n c)
      (block : BlockInPlane (s.slot n).cfg c.toNat k.toNat x.toNat y.toNat) :
      SampleWrites s n (.residual n c k tskip qp x y) (blockWrites n .recon c.toNat x.toNat y.toNat (2 ^ k.toNat)
        (2 ^ k.toNat) fun i j => clip1 ((s.slot n).cfg.bitDepth c.toNat)
          (s.sample n .recon c.toNat (x.toNat + i) (y.toNat + j) 0 +
            entry ((blockResidual (s.slot n) s.me c.toNat k.toNat qp.toNat x.toNat y.toNat tskip).getD j []) i))
  | interPred (c : BitVec 2) (expl : Bool) (denom : BitVec 3) (x y w h wt0 of0 wt1 of1 : BitVec 16)
      (ready : PlaneReady s n c) (block : PbInPicture (s.slot n).cfg x.toNat y.toNat w.toNat h.toNat) :
      SampleWrites s n (.interPred n c expl denom x y w h wt0 of0 wt1 of1)
        (blockWrites n .recon c.toNat (x.toNat / (s.slot n).cfg.subW c.toNat) (y.toNat / (s.slot n).cfg.subH c.toNat)
          (w.toNat / (s.slot n).cfg.subW c.toNat) (h.toNat / (s.slot n).cfg.subH c.toNat)
          (interSample s (s.slot n).cfg ((s.slot n).metaAt x.toNat y.toNat)
            ⟨expl, denom.toNat, wt0.toInt, of0.toInt, wt1.toInt, of1.toInt⟩ c.toNat
            (x.toNat / (s.slot n).cfg.subW c.toNat) (y.toNat / (s.slot n).cfg.subH c.toNat)))
  | deblock (dir : Bool) (rx ry : BitVec 16) (flight : InFlight s n) :
      SampleWrites s n (.deblock n dir rx ry) (deblockWrites s n dir rx.toNat ry.toNat)
  | sao (rx ry : BitVec 16) (flight : InFlight s n) :
      SampleWrites s n (.sao n rx ry) (saoWrites s n rx.toNat ry.toNat)

/-- What a completed command has done, before its words leave the queue. -/
inductive Effect (s : State) : Instr → State → Prop
  | nop : Effect s .nop s
  | waited (n : BitVec 5) (value : BitVec 3) (rx ry : BitVec 16) : Effect s (.waitProgress n value rx ry) s
  | slot {i : Instr} {n : BitVec 5} {sl : Slot} (edit : SlotEdit s n i sl) (keeps : ∀ m, i ≠ .picInit m) :
      Effect s i (s.setSlot n sl)
  | picInit {n : BitVec 5} {sl : Slot} (edit : SlotEdit s n (.picInit n) sl) :
      Effect s (.picInit n) { s.setSlot n sl with mem := memForget s.mem n }
  | coefWrite (cx cy : BitVec 5) (value : BitVec 16) :
      Effect s (.coefWrite cx cy value) (s.setEngine s.cur { s.me with
        coef := tableSet 0#16 s.me.coef (coefKey cx.toNat cy.toNat) value })
  | coefClear : Effect s .coefClear s.clearCoef
  | samples {i : Instr} {n : BitVec 5} {ws : List (Nat × Int)} (draws : Nat) (writes : SampleWrites s n i ws)
      (keeps : ∀ c k tskip qp x y, i ≠ .residual n c k tskip qp x y) :
      Effect s i { s.setSamples ws with draws := draws }
  | residual (n : BitVec 5) (c : BitVec 2) (k : BitVec 3) (tskip : Bool) (qp : BitVec 7) (x y : BitVec 16)
      {ws : List (Nat × Int)} (writes : SampleWrites s n (.residual n c k tskip qp x y) ws) :
      Effect s (.residual n c k tskip qp x y) (s.setSamples ws).drawn.clearCoef
  | predicted (n : BitVec 5) (c : BitVec 2) (expl : Bool) (denom : BitVec 3) (x y w h wt0 of0 wt1 of1 : BitVec 16)
      {ws : List (Nat × Int)} (flight : InFlight s n)
      (writes : SampleWrites s n (.interPred n c expl denom x y w h wt0 of0 wt1 of1) ws) :
      Effect s (.interPred n c expl denom x y w h wt0 of0 wt1 of1)
        ((s.setSamples ws).setSlot n { s.slot n with
          integrity := propagated (s.slot n).integrity (usesDegraded s ((s.slot n).metaAt x.toNat y.toNat)) }).drawn
  | warned (n : BitVec 5) (c : BitVec 2) (expl : Bool) (denom : BitVec 3) (x y w h wt0 of0 wt1 of1 : BitVec 16)
      (code : WarningCode) (flight : InFlight s n)
      (named : code = .bothPredflagsZero ∨ code = .nonexistingReferencePictureAccessed) :
      Effect s (.interPred n c expl denom x y w h wt0 of0 wt1 of1) (warning code n s)

/-- How a command ends (R228, R230, R237, R40). -/
inductive Ending (s : State) (i : Instr) : State → Prop
  | completed {u : State} (effect : Effect s i u) : Ending s i (complete i.length u)
  | faulted (code : FaultCode) : Ending s i (raise code s)
  | faultedCleared (code : FaultCode) {n : BitVec 5} {c : BitVec 2} {k : BitVec 3} {tskip : Bool} {qp : BitVec 7}
      {x y : BitVec 16} (isResidual : i = .residual n c k tskip qp x y) : Ending s i (raise code s.clearCoef)
  | held {n : BitVec 5} {value : BitVec 3} {rx ry : BitVec 16} (isWait : i = .waitProgress n value rx ry) :
      Ending s i s

/-! ## The effect of each command that can fault -/

variable {s u : State} {n : BitVec 5}

theorem regWriteEffect_ok {reg : BitVec 8} {value : Word} (h : regWriteEffect n reg value s = .ok u) :
    Effect s (.regWrite n reg value) u := by
  obtain ⟨-, h⟩ := withSlot_ok.mp h
  split_ifs at h with hr ha
  cases h
  exact .slot (.regWrite reg value (by simpa using ha)) (by simp)

theorem picInitEffect_ok (h : picInitEffect n s = .ok u) : Effect s (.picInit n) u := by
  obtain ⟨-, h⟩ := withSlot_ok.mp h
  split_ifs at h with ha
  split at h
  · cases h
  · next valid =>
    cases h
    exact .picInit (.picInit (by simpa using ha) valid)

theorem picDoneEffect_ok (h : picDoneEffect n s = .ok u) : Effect s (.picDone n) u := by
  obtain ⟨hn, hf, h⟩ := withInFlight_ok.mp h
  cases h
  exact .slot (.picDone ⟨hn, hf⟩) (by simp)

theorem picFreeEffect_ok (h : picFreeEffect n s = .ok u) : Effect s (.picFree n) u := by
  obtain ⟨-, h⟩ := withSlot_ok.mp h
  split_ifs at h with ha
  cases h
  exact .slot (.picFree ha) (by simp)

theorem setCtbEffect_ok {rx ry : BitVec 16} {addr : BitVec 32} {slice tile : BitVec 16}
    (h : setCtbEffect n rx ry addr slice tile s = .ok u) : Effect s (.setCtb n rx ry addr slice tile) u := by
  obtain ⟨hn, hf, h⟩ := withInFlight_ok.mp h
  split_ifs at h with h1 h2 h3 h4
  cases h
  exact .slot (.setCtb rx ry addr slice tile ⟨hn, hf⟩ (by omega) (by omega)) (by simp)

theorem setSliceEffect_ok {idx : BitVec 16} {dbkDis lfAcross saoL saoC : Bool} {beta tc : BitVec 4}
    (h : setSliceEffect n idx ⟨dbkDis, lfAcross, saoL, saoC, beta, tc⟩ s = .ok u) :
    Effect s (.setSlice n idx dbkDis lfAcross saoL saoC beta tc) u := by
  obtain ⟨hn, hf, h⟩ := withInFlight_ok.mp h
  split_ifs at h with h1 h2
  cases h
  simp only [not_or, Bool.not_eq_false] at h2
  exact .slot (.setSlice idx dbkDis lfAcross saoL saoC beta tc ⟨hn, hf⟩ h2.1 h2.2) (by simp)

theorem setCuEffect_ok {k : BitVec 3} {intra pcm bypass : Bool} {q : BitVec 7} {x y : BitVec 16}
    (h : setCuEffect n k intra pcm bypass q x y s = .ok u) : Effect s (.setCu n k intra pcm bypass q x y) u := by
  obtain ⟨hn, hf, h⟩ := withInFlight_ok.mp h
  dsimp only at h
  split_ifs at h with h1 h2 h3 h4 h5
  cases h
  exact .slot (.setCu k intra pcm bypass q x y ⟨hn, hf⟩ (by omega) (by simpa using h4)) (by simp)

theorem markTbEffect_ok {k : BitVec 3} {nz : Bool} {x y : BitVec 16} (h : markTbEffect n k nz x y s = .ok u) :
    Effect s (.markTb n k nz x y) u := by
  obtain ⟨hn, hf, h⟩ := withInFlight_ok.mp h
  dsimp only at h
  split_ifs at h with h1 h2
  cases h
  exact .slot (.markTb k nz x y ⟨hn, hf⟩) (by simp)

theorem markPbEffect_ok {pf0 pf1 : Bool} {ref0 ref1 : BitVec 5} {x y w h mv0x mv0y mv1x mv1y : BitVec 16}
    (ok : markPbEffect n pf0 pf1 ref0 ref1 x y w h ⟨mv0x, mv0y⟩ ⟨mv1x, mv1y⟩ s = .ok u) :
    Effect s (.markPb n pf0 pf1 ref0 ref1 x y w h mv0x mv0y mv1x mv1y) u := by
  obtain ⟨hn, hf, ok⟩ := withInFlight_ok.mp ok
  split_ifs at ok with h1 h2 h3
  cases ok
  exact .slot (.markPb pf0 pf1 ref0 ref1 x y w h mv0x mv0y mv1x mv1y ⟨hn, hf⟩ (by omega) (by omega)) (by simp)

theorem setSaoEffect_ok {c ty : BitVec 2} {pos : BitVec 5} {rx ry : BitVec 16} {o1 o2 o3 o4 : BitVec 8}
    (h : setSaoEffect n c ty pos rx ry o1 o2 o3 o4 s = .ok u) :
    Effect s (.setSao n c ty pos rx ry o1 o2 o3 o4) u := by
  obtain ⟨-, hn, hf, -, h⟩ := withPlane_ok.mp h
  split_ifs at h with h1 h2 h3
  cases h
  exact .slot (.setSao c ty pos rx ry o1 o2 o3 o4 ⟨hn, hf⟩) (by simp)

theorem setScalingEffect_ok {z : BitVec 2} {m : BitVec 3} {x y : BitVec 5} {v : BitVec 8}
    (h : setScalingEffect n z m x y v s = .ok u) : Effect s (.setScaling n z m x y v) u := by
  obtain ⟨hn, hf, h⟩ := withInFlight_ok.mp h
  split_ifs at h with h1
  cases h
  exact .slot (.setScaling z m x y v ⟨hn, hf⟩ fun hv => h1 (by simp [hv])) (by simp)

theorem setProgressEffect_ok {value : BitVec 3} {rx ry : BitVec 16} (h : setProgressEffect n value rx ry s = .ok u) :
    Effect s (.setProgress n value rx ry) u := by
  obtain ⟨hn, hf, h⟩ := withInFlight_ok.mp h
  split at h
  · cases h
  · next v hv =>
    split_ifs at h with h1 h2
    cases h
    exact .slot (.setProgress value rx ry v ⟨hn, hf⟩ hv (by omega)) (by simp)

theorem putSampleEffect_ok {c : BitVec 2} {x y v : BitVec 16} (h : putSampleEffect n c x y v s = .ok u) :
    Effect s (.putSample n c x y v) u := by
  obtain ⟨hc, hn, hf, hp, h⟩ := withPlane_ok.mp h
  split_ifs at h with h1 h2
  cases h
  exact .samples s.draws (.putSample c x y v ⟨hc, ⟨hn, hf⟩, hp⟩ (by omega)) (by simp)

theorem intraPredEffect_ok {c : BitVec 2} {k : BitVec 3} {mode : BitVec 6} {x y : BitVec 16}
    (h : intraPredEffect n c k mode x y s = .ok u) : Effect s (.intraPred n c k mode x y) u := by
  obtain ⟨hc, hn, hf, hp, h⟩ := withPlane_ok.mp h
  dsimp only at h
  split_ifs at h with h1 h2 h3
  cases h
  have block : BlockInPlane (s.slot n).cfg c.toNat k.toNat x.toNat y.toNat := by unfold BlockInPlane; omega
  exact .samples (s.draws + 1) (.intraPred c k mode x y ⟨hc, ⟨hn, hf⟩, hp⟩ block) (by simp)

theorem residualEffect_ok {c : BitVec 2} {k : BitVec 3} {tskip : Bool} {qp : BitVec 7} {x y : BitVec 16}
    (h : residualEffect n c k tskip qp x y s = .ok u) : Effect s (.residual n c k tskip qp x y) u.clearCoef := by
  obtain ⟨hc, hn, hf, hp, h⟩ := withPlane_ok.mp h
  dsimp only at h
  split_ifs at h with h1 h2 h3 h4 h5 h6
  cases h
  have block : BlockInPlane (s.slot n).cfg c.toNat k.toNat x.toNat y.toNat := by unfold BlockInPlane; omega
  exact .residual n c k tskip qp x y (.residual c k tskip qp x y ⟨hc, ⟨hn, hf⟩, hp⟩ block)

theorem interPredEffect_ok {c : BitVec 2} {expl : Bool} {denom : BitVec 3} {x y w h wt0 of0 wt1 of1 : BitVec 16}
    (ok : interPredEffect n c ⟨expl, denom.toNat, wt0.toInt, of0.toInt, wt1.toInt, of1.toInt⟩ x y w h s = .ok u) :
    Effect s (.interPred n c expl denom x y w h wt0 of0 wt1 of1) u := by
  obtain ⟨hc, hn, hf, hp, ok⟩ := withPlane_ok.mp ok
  dsimp only at ok
  split_ifs at ok with h1 h2 h3
  · cases ok
    exact .warned n c expl denom x y w h wt0 of0 wt1 of1 _ ⟨hn, hf⟩ (.inl rfl)
  · split at ok
    · cases ok
    · cases ok
      exact .warned n c expl denom x y w h wt0 of0 wt1 of1 _ ⟨hn, hf⟩ (.inr rfl)
    · cases ok
      simp only [not_or, Decidable.not_not, Bool.not_eq_false, Nat.not_lt] at h1 h2
      obtain ⟨hx, hy, hw, hh⟩ := h1
      exact .predicted n c expl denom x y w h wt0 of0 wt1 of1 ⟨hn, hf⟩
        (.interPred c expl denom x y w h wt0 of0 wt1 of1 ⟨hc, ⟨hn, hf⟩, hp⟩ ⟨hx, hy, hw, hh, h2.1, h2.2⟩)

theorem deblockEffect_ok {dir : Bool} {rx ry : BitVec 16} (h : deblockEffect n dir rx ry s = .ok u) :
    Effect s (.deblock n dir rx ry) u := by
  obtain ⟨hn, hf, h⟩ := withInFlight_ok.mp h
  split_ifs at h with h1
  cases h
  exact .samples (s.draws + 1) (.deblock dir rx ry ⟨hn, hf⟩) (by simp)

theorem saoEffect_ok {rx ry : BitVec 16} (h : saoEffect n rx ry s = .ok u) : Effect s (.sao n rx ry) u := by
  obtain ⟨hn, hf, h⟩ := withInFlight_ok.mp h
  split_ifs at h with h1
  cases h
  exact .samples (s.draws + 1) (.sao rx ry ⟨hn, hf⟩) (by simp)

/-! ## The inversion of `exec` -/

/-- A command that answers through `finish`, and whose effect is `Effect` where there is one, ends as `Ending` says. -/
theorem ending_of_finish {t : State} {i : Instr} {r : Except FaultCode State} (ok : ∀ u, r = .ok u → Effect s i u)
    (h : finish i.length s r = .next t) : Ending s i t := by
  rcases finish_next h with ⟨u, hr, rfl⟩ | ⟨code, -, rfl⟩
  · exact .completed (ok u hr)
  · exact .faulted code

theorem execResidual_ending {t : State} {c : BitVec 2} {k : BitVec 3} {tskip : Bool} {qp : BitVec 7} {x y : BitVec 16}
    (h : execResidual n c k tskip qp x y s = .next t) : Ending s (.residual n c k tskip qp x y) t := by
  unfold execResidual at h
  split at h
  · next u hu => cases h; exact .completed (residualEffect_ok hu)
  · next code _ => cases h; exact .faultedCleared code rfl

theorem execWaitProgress_ending {t : State} {value : BitVec 3} {rx ry : BitVec 16}
    (h : execWaitProgress n value rx ry s = .next t) : Ending s (.waitProgress n value rx ry) t := by
  unfold execWaitProgress at h
  split at h
  · next code _ => cases h; exact .faulted code
  · cases h; exact .completed (.waited n value rx ry)
  · cases h; exact .held rfl

/-- Every next state of a command is one of its endings. -/
theorem exec_ending {i : Instr} {t : State} (h : exec i s = .next t) : Ending s i t := by
  cases i with
  | nop => exact ending_of_finish (r := .ok s) (fun _ e => by cases e; exact .nop) h
  | regWrite => exact ending_of_finish (fun _ => regWriteEffect_ok) h
  | picInit => exact ending_of_finish (fun _ => picInitEffect_ok) h
  | picDone => exact ending_of_finish (fun _ => picDoneEffect_ok) h
  | picFree => exact ending_of_finish (fun _ => picFreeEffect_ok) h
  | setCtb => exact ending_of_finish (fun _ => setCtbEffect_ok) h
  | setSlice => exact ending_of_finish (fun _ => setSliceEffect_ok) h
  | setCu => exact ending_of_finish (fun _ => setCuEffect_ok) h
  | markTb => exact ending_of_finish (fun _ => markTbEffect_ok) h
  | markPb => exact ending_of_finish (fun _ => markPbEffect_ok) h
  | setSao => exact ending_of_finish (fun _ => setSaoEffect_ok) h
  | setScaling => exact ending_of_finish (fun _ => setScalingEffect_ok) h
  | coefWrite => exact ending_of_finish (r := .ok _) (fun _ e => by cases e; exact .coefWrite _ _ _) h
  | coefClear => exact ending_of_finish (r := .ok s.clearCoef) (fun _ e => by cases e; exact .coefClear) h
  | putSample => exact ending_of_finish (fun _ => putSampleEffect_ok) h
  | intraPred => exact ending_of_finish (fun _ => intraPredEffect_ok) h
  | residual => exact execResidual_ending h
  | interPred => exact ending_of_finish (fun _ => interPredEffect_ok) h
  | deblock => exact ending_of_finish (fun _ => deblockEffect_ok) h
  | sao => exact ending_of_finish (fun _ => saoEffect_ok) h
  | setProgress => exact ending_of_finish (fun _ => setProgressEffect_ok) h
  | waitProgress => exact execWaitProgress_ending h

end Sys2Proof.Machine

namespace Sys2Proof.Machine

/-! ## What an ending leaves of the engines, the slots and the memory -/

section
variable {s u t : State} {i : Instr} {n : BitVec 5}

theorem SlotEdit.named {sl : Slot} (h : SlotEdit s n i sl) : namedSlot i = some n := by cases h <;> rfl

theorem SampleWrites.named {ws : List (Nat × Int)} (h : SampleWrites s n i ws) : namedSlot i = some n := by
  cases h <;> rfl

theorem Effect.params_eq (h : Effect s i u) : u.params = s.params := by cases h <;> rfl

theorem Effect.cur_eq (h : Effect s i u) : u.cur = s.cur := by cases h <;> rfl

theorem Effect.engine_other (h : Effect s i u) {e : BitVec 5} (he : e ≠ s.cur) : u.engine e = s.engine e := by
  cases h with
  | coefWrite => exact engine_setEngine_other s _ he
  | coefClear => exact engine_setEngine_other s _ he
  | residual _ _ _ _ _ _ _ writes => exact engine_setEngine_other (State.drawn (s.setSamples _)) _ he
  | _ => rfl

/-- Of its own engine a command changes the coefficients alone, before its words leave the queue. -/
theorem Effect.me_eq (h : Effect s i u) : u.me = { s.me with coef := u.me.coef } := by
  cases h with
  | coefWrite => simp
  | coefClear => simp
  | residual => simp
  | _ => rfl

/-- The slot's tag is as before, or one of the two an `INTER_PRED` gives (R158, R160). -/
def Regraded (s : State) (n : BitVec 5) (i : Instr) (sl : Slot) : Prop :=
  namedSlot i = some n ∧ InFlight s n ∧
    ∃ q : Integrity, (q = (s.slot n).integrity ∨ q.degraded = true) ∧ sl = { s.slot n with integrity := q }

/-- A prediction keeps the tag, or a degraded reference makes it DerivedFromErrors (R160). -/
theorem propagated_cases (q : Integrity) (d : Bool) :
    propagated q d = q ∨ (d = true ∧ q ≠ .decodingErrors ∧ propagated q d = .derivedFromErrors) := by
  unfold propagated
  split_ifs with h
  · exact .inr ⟨h.1, h.2, rfl⟩
  · exact .inl rfl

theorem propagated_degraded (q : Integrity) (d : Bool) : propagated q d = q ∨ (propagated q d).degraded = true :=
  (propagated_cases q d).imp_right fun ⟨_, _, h⟩ => h ▸ rfl

theorem slot_setSlot_cases (s : State) (m : BitVec 5) (sl : Slot) (n : BitVec 5) :
    (s.setSlot m sl).slot n = s.slot n ∨ (n = m ∧ (s.setSlot m sl).slot n = sl) := by
  by_cases h : n = m
  · subst h
    exact .inr ⟨rfl, slot_setSlot_same s n sl⟩
  · exact .inl (slot_setSlot_other s sl h)

theorem Effect.slot_cases (h : Effect s i u) (n : BitVec 5) :
    u.slot n = s.slot n ∨ SlotEdit s n i (u.slot n) ∨ Regraded s n i (u.slot n) := by
  cases h with
  | @slot i m sl edit _ =>
    rcases slot_setSlot_cases s m sl n with h | ⟨rfl, h⟩
    · exact .inl h
    · exact .inr (.inl (h.symm ▸ edit))
  | @picInit m sl edit =>
    rcases slot_setSlot_cases s m sl n with h | ⟨rfl, h⟩
    · exact .inl h
    · exact .inr (.inl (show SlotEdit s n _ ((s.setSlot n sl).slot n) from h.symm ▸ edit))
  | predicted m c expl denom x y w h wt0 of0 wt1 of1 flight writes =>
    rcases slot_setSlot_cases (s.setSamples _) m _ n with h | ⟨rfl, h⟩
    · exact .inl h
    · exact .inr (.inr ⟨rfl, flight, _, propagated_degraded _ _, h⟩)
  | warned m c expl denom x y w h wt0 of0 wt1 of1 code flight named =>
    by_cases hn : n = m
    · subst hn
      exact .inr (.inr ⟨rfl, flight, .decodingErrors, .inr rfl, slot_warning_same s code n⟩)
    · exact .inl (slot_warning_other s code hn)
  | _ => exact .inl rfl

theorem Effect.mem_cases (h : Effect s i u) : u.mem = s.mem ∨ (∃ n, i = .picInit n ∧ u.mem = memForget s.mem n) ∨
    ∃ n ws, SampleWrites s n i ws ∧ u.mem = memSetSamples s.mem ws := by
  cases h with
  | picInit => exact .inr (.inl ⟨_, rfl, rfl⟩)
  | samples _ writes => exact .inr (.inr ⟨_, _, writes, rfl⟩)
  | residual _ _ _ _ _ _ _ writes => exact .inr (.inr ⟨_, _, writes, rfl⟩)
  | predicted _ _ _ _ _ _ _ _ _ _ _ _ _ writes => exact .inr (.inr ⟨_, _, writes, rfl⟩)
  | _ => exact .inl rfl

/-- What a command can leave in a slot: the slot as it was, an edit of the slot it names, or a new integrity. -/
theorem exec_slot_cases (h : exec i s = .next t) (n : BitVec 5) :
    t.slot n = s.slot n ∨ SlotEdit s n i (t.slot n) ∨ Regraded s n i (t.slot n) := by
  cases exec_ending h with
  | completed effect => exact effect.slot_cases n
  | _ => exact .inl rfl

/-- What a command can leave in memory: the memory as it was, the samples of an initialised slot forgotten, or the
samples it writes stored. -/
theorem exec_mem_cases (h : exec i s = .next t) : t.mem = s.mem ∨
    (∃ n, i = .picInit n ∧ t.mem = memForget s.mem n) ∨
    ∃ n ws, SampleWrites s n i ws ∧ t.mem = memSetSamples s.mem ws := by
  cases exec_ending h with
  | completed effect => exact effect.mem_cases
  | _ => exact .inl rfl

theorem exec_slot_of_not_named (h : exec i s = .next t) (hn : namedSlot i ≠ some n) : t.slot n = s.slot n := by
  rcases exec_slot_cases h n with h | h | h
  · exact h
  · exact absurd h.named hn
  · exact absurd h.1 hn

/-- A fault discards every effect of its command (R230). -/
theorem faulted_raise (code : FaultCode) (s : State) : Faulted code s (raise code s) where
  errCode := by simp
  errCmd := by simp
  faulted := by simp
  queue := by simp
  cmdCount := by simp
  irqEn := by simp
  others := fun _ he => engine_raise_other s code he
  cur := rfl
  slots := fun _ => rfl
  memory := fun _ => rfl
  warnings := ⟨rfl, rfl⟩

/-! ## The host operations and the slots -/

/-- No host operation but `reset` changes a slot. -/
theorem hostStep_slots {op : HostOp} (h : hostStep op s = .next t) :
    t.slots = s.slots ∨ (op = .reset ∧ t = hostReset s) := by
  cases op with
  | push e w =>
    simp only [hostStep, onEngine] at h
    split_ifs at h
    cases h
    by_cases hq : s.params.queueDepth ≤ (s.engine e).queue.length
    · exact .inl (by simp [hostPush, hq])
    · exact .inl (by simp [hostPush, hq])
  | readStatus | writeCtrl =>
    simp only [hostStep, onEngine] at h
    split_ifs at h
    cases h
    exact .inl rfl
  | readCfg | readSlot | readProgress =>
    simp only [hostStep, onSlot] at h
    split_ifs at h
    cases h
    exact .inl rfl
  | memRead =>
    cases h
    unfold hostMemRead
    split_ifs <;> exact .inl rfl
  | memWrite =>
    cases h
    unfold hostMemWrite
    split_ifs <;> exact .inl rfl
  | getWarning =>
    cases h
    unfold hostGetWarning
    split_ifs
    · exact .inl rfl
    · split <;> exact .inl rfl
  | reset =>
    cases h
    exact .inr ⟨rfl, rfl⟩

theorem slot_eq_of_slots_eq (h : t.slots = s.slots) (n : BitVec 5) : t.slot n = s.slot n := by
  simp only [State.slot, h]

@[simp] theorem slot_hostReset (s : State) (n : BitVec 5) : (hostReset s).slot n = Slot.reset := by
  simp [hostReset, resetAll, State.slot, State.replied]

@[simp] theorem slot_resetWith (p : Params) (n : BitVec 5) : (State.resetWith p).slot n = Slot.reset := by
  simp [State.resetWith, State.slot]

end

/-! ## The configuration lock (R27) -/

theorem exec_regWrite_locked (s : State) (n : BitVec 5) (reg : BitVec 8) (value : Word)
    (hn : n.toNat < s.params.numSlots) (hr : reg.toNat ≤ 6) (ha : (s.slot n).alloc = true) :
    exec (.regWrite n reg value) s = .next (raise .configLocked s) := by
  have effect : regWriteEffect n reg value s = .error .configLocked := by
    simp [regWriteEffect, withSlot, hn, Nat.not_lt.mpr hr, ha]
  show finish 2 s (regWriteEffect n reg value s) = _
  rw [effect, finish_error]

/-- Only `REG_WRITE` changes a configuration, and only of a slot that is free. -/
theorem SlotEdit.cfg_eq {s : State} {i : Instr} {n : BitVec 5} {sl : Slot} (h : SlotEdit s n i sl)
    (ha : (s.slot n).alloc = true) : sl.cfg = (s.slot n).cfg := by
  cases h with
  | regWrite reg value free => rw [ha] at free; cases free
  | _ => rfl

/-- Settles O10: the fault by evaluating REG_WRITE, the frame over the edits of a slot. -/
theorem configLocked : Obligations.ConfigLocked := by
  refine ⟨fun s n reg value hn hr ha => ⟨_, exec_regWrite_locked s n reg value hn hr ha, faulted_raise _ s⟩, ?_⟩
  intro i s t n ha h
  rcases exec_slot_cases h n with h | h | ⟨-, -, q, -, h⟩
  · rw [h]
  · exact h.cfg_eq ha
  · rw [h]

/-! ## The progress cells (R38) -/

@[simp] theorem progressAt_reset (x y : Nat) : Slot.reset.progressAt x y = .none := rfl

@[simp] theorem progressAt_fresh (g : CfgRegs) (x y : Nat) : (Slot.fresh g).progressAt x y = .none := rfl

theorem progressAt_set_same (sl : Slot) (x y : Nat) (v : Progress) :
    { sl with progress := tableSet Progress.none sl.progress (cellKey x y) v }.progressAt x y = v := by
  simp [Slot.progressAt]

theorem progressAt_set_other (sl : Slot) {x y x' y' : Nat} (v : Progress) (hx : x < 65536) (hx' : x' < 65536)
    (h : ¬ (x' = x ∧ y' = y)) :
    { sl with progress := tableSet Progress.none sl.progress (cellKey x y) v }.progressAt x' y' =
      sl.progressAt x' y' :=
  tableGet_set_other _ _ v fun e => h (cellKey_inj hx' hx e)

/-- What an edit of a slot does to a progress cell. -/
theorem SlotEdit.progressAt_cases {s : State} {i : Instr} {n : BitVec 5} {sl : Slot} (h : SlotEdit s n i sl) {rx ry : Nat}
    (hx : rx < 65536) : sl.progressAt rx ry = (s.slot n).progressAt rx ry ∨
    (i = .picInit n ∧ sl.progressAt rx ry = .none) ∨
    (∃ v bx bz, i = .setProgress n v bx bz ∧ bx.toNat = rx ∧ bz.toNat = ry ∧
      ((s.slot n).progressAt rx ry).toNat ≤ (sl.progressAt rx ry).toNat) := by
  cases h with
  | picInit => exact .inr (.inl ⟨rfl, progressAt_fresh _ rx ry⟩)
  | setProgress value bx bz v flight named raised =>
    by_cases hc : rx = bx.toNat ∧ ry = bz.toNat
    · obtain ⟨rfl, rfl⟩ := hc
      refine .inr (.inr ⟨value, bx, bz, rfl, rfl, rfl, ?_⟩)
      rwa [progressAt_set_same]
    · exact .inl (progressAt_set_other _ v bx.isLt hx hc)
  | _ => exact .inl rfl

/-- A `PIC_INIT` that counts as completed has initialised its slot. -/
theorem exec_picInit_slot {s t : State} {n : BitVec 5} (h : exec (.picInit n) s = .next t)
    (hc : t.me.cmdCount = s.me.cmdCount + 1) : t.slot n = Slot.fresh (s.slot n).cfg := by
  cases exec_ending h with
  | completed effect =>
    cases effect with
    | slot edit keeps => exact absurd rfl (keeps n)
    | picInit edit =>
      cases edit
      exact slot_setSlot_same s n _
    | samples _ writes _ => cases writes
  | faulted => simp at hc
  | faultedCleared _ isResidual => cases isResidual
  | held isWait => cases isWait

/-- Settles O11, over the edits of a slot and the host operations. -/
theorem progressMonotone : Obligations.ProgressMonotone := by
  refine ⟨fun i s t n rx ry hx hy h => ?_, fun s t n h hc rx ry => ?_, fun p n rx ry => by simp,
    fun op s t n rx ry h => ?_⟩
  · rcases exec_slot_cases h n with h | h | ⟨-, -, q, -, h⟩
    · exact .inl (by rw [h])
    · exact h.progressAt_cases hx
    · exact .inl (by rw [h]; rfl)
  · rw [exec_picInit_slot h hc, progressAt_fresh]
  · rcases hostStep_slots h with h | ⟨rfl, rfl⟩
    · exact .inl (by rw [slot_eq_of_slots_eq h])
    · exact .inr ⟨rfl, by simp⟩

/-! ## The integrity tag (R25) -/

theorem Integrity.completed_cases (q : Integrity) : q.completed = q ∨ (q = .notDecoded ∧ q.completed = .decoded) := by
  cases q <;> simp [Integrity.completed]

theorem Integrity.degraded_iff (q : Integrity) : q.degraded = true ↔ q ∈ [.decodingErrors, .derivedFromErrors] := by
  cases q <;> simp [Integrity.degraded]

theorem usesDegraded_iff (s : State) (md : MetaRec) : usesDegraded s md = true ↔
    (md.predFlagL0 = true ∧ (s.slot md.refSlotL0).integrity ∈ [.decodingErrors, .derivedFromErrors]) ∨
    (md.predFlagL1 = true ∧ (s.slot md.refSlotL1).integrity ∈ [.decodingErrors, .derivedFromErrors]) := by
  simp only [usesDegraded, Bool.or_eq_true, Bool.and_eq_true, Integrity.degraded_iff]

/-- What an edit of a slot does to its integrity: only `PIC_INIT` and `PIC_DONE` move it. -/
theorem SlotEdit.integrity_cases {s : State} {i : Instr} {n : BitVec 5} {sl : Slot} (h : SlotEdit s n i sl) :
    sl.integrity = (s.slot n).integrity ∨ (i = .picInit n ∧ sl.integrity = .notDecoded) ∨
    (i = .picDone n ∧ (s.slot n).integrity = .notDecoded ∧ sl.integrity = .decoded) := by
  cases h with
  | picInit => exact .inr (.inl ⟨rfl, rfl⟩)
  | picDone =>
    rcases (s.slot n).integrity.completed_cases with h | h
    · exact .inl h
    · exact .inr (.inr ⟨rfl, h⟩)
  | _ => exact .inl rfl

/-- The queue after a warning: the oldest entry dropped where the queue was full (R233). -/
theorem warning_warn (w : WarningCode) (n : BitVec 5) (s : State) : (warning w n s).warn =
    (if s.params.warnDepth ≤ s.warn.length then s.warn.tail else s.warn) ++ [w.code] := by
  simp [warning]

/-- How `INTER_PRED` moves the integrity of its slot: to DecodingErrors with a warning (R158), or to DerivedFromErrors
from a degraded reference (R160). -/
def InterPredMoves (s t : State) (n : BitVec 5) (i : Instr) : Prop :=
  ∃ c expl denom x y w h wt0 of0 wt1 of1, ∃ md : MetaRec, i = .interPred n c expl denom x y w h wt0 of0 wt1 of1 ∧
    md = (s.slot n).metaAt x.toNat y.toNat ∧
    (((t.slot n).integrity = .decodingErrors ∧ ∃ code : BitVec 16, (code = 1011 ∨ code = 1012) ∧
        t.warn = (if s.params.warnDepth ≤ s.warn.length then s.warn.tail else s.warn) ++ [code]) ∨
     ((t.slot n).integrity = .derivedFromErrors ∧ (s.slot n).integrity ≠ .decodingErrors ∧
        ((md.predFlagL0 = true ∧ (s.slot md.refSlotL0).integrity ∈ [.decodingErrors, .derivedFromErrors]) ∨
         (md.predFlagL1 = true ∧ (s.slot md.refSlotL1).integrity ∈ [.decodingErrors, .derivedFromErrors]))))

theorem warningCode_eq {code : WarningCode}
    (h : code = .bothPredflagsZero ∨ code = .nonexistingReferencePictureAccessed) :
    code.code = 1011 ∨ code.code = 1012 := by
  rcases h with rfl | rfl
  · exact .inl rfl
  · exact .inr rfl

theorem Effect.integrity_cases {s u : State} {i : Instr} (effect : Effect s i u) (n : BitVec 5) :
    (u.slot n).integrity = (s.slot n).integrity ∨ (i = .picInit n ∧ (u.slot n).integrity = .notDecoded) ∨
    (i = .picDone n ∧ (s.slot n).integrity = .notDecoded ∧ (u.slot n).integrity = .decoded) ∨
    InterPredMoves s u n i := by
  cases effect with
  | @slot i m sl edit _ =>
    rcases slot_setSlot_cases s m sl n with h | ⟨rfl, h⟩
    · exact .inl (by rw [h])
    · rw [h]
      exact edit.integrity_cases.imp_right fun h => h.imp_right .inl
  | @picInit m sl edit =>
    rcases slot_setSlot_cases s m sl n with h | ⟨rfl, h⟩
    · exact .inl (congrArg Slot.integrity h)
    · cases edit
      exact .inr (.inl ⟨rfl, congrArg Slot.integrity h⟩)
  | predicted m c expl denom x y w ht wt0 of0 wt1 of1 flight writes =>
    rcases slot_setSlot_cases (s.setSamples _) m _ n with h | ⟨rfl, h⟩
    · exact .inl (congrArg Slot.integrity h)
    · have graded := congrArg Slot.integrity h
      rcases propagated_cases (s.slot n).integrity (usesDegraded s ((s.slot n).metaAt x.toNat y.toNat)) with
        e | ⟨used, fresh, e⟩
      · exact .inl (graded.trans e)
      · exact .inr (.inr (.inr ⟨c, expl, denom, x, y, w, ht, wt0, of0, wt1, of1, _, rfl, rfl,
          .inr ⟨graded.trans e, fresh, (usesDegraded_iff s _).mp used⟩⟩))
  | warned m c expl denom x y w ht wt0 of0 wt1 of1 code flight named =>
    by_cases hn : n = m
    · subst hn
      have graded : ((warning code n s).slot n).integrity = .decodingErrors := by simp
      exact .inr (.inr (.inr ⟨c, expl, denom, x, y, w, ht, wt0, of0, wt1, of1, _, rfl, rfl,
        .inl ⟨graded, code.code, warningCode_eq named, warning_warn code n s⟩⟩))
    · exact .inl (by rw [slot_warning_other s code hn])
  | _ => exact .inl rfl

/-- Settles O14: a command by `Effect.integrity_cases`, a host operation by `hostStep_slots`. -/
theorem integrityTransitions : Obligations.IntegrityTransitions := by
  refine ⟨fun i s t n h => ?_, fun op s t n h => ?_⟩
  · cases exec_ending h with
    | completed effect => exact effect.integrity_cases n
    | _ => exact .inl rfl
  · rcases hostStep_slots h with h | ⟨rfl, rfl⟩
    · exact .inl (by rw [slot_eq_of_slots_eq h])
    · exact .inr ⟨rfl, by simp [Slot.reset]⟩

/-! ## The coefficient buffer of RESIDUAL (R40) -/

theorem engine_clearCoef_other (s : State) {e : BitVec 5} (he : e ≠ s.cur) : s.clearCoef.engine e = s.engine e :=
  engine_setEngine_other s _ he

/-- Settles O44: both ends of RESIDUAL pass through the clearing of the buffer. -/
theorem residualClearsCoef : Obligations.ResidualClearsCoef := by
  intro s n c k tskip qp x y
  cases h : residualEffect n c k tskip qp x y s with
  | error code =>
    refine ⟨raise code s.clearCoef, by simp [exec, execResidual, h], fun a b => ?_, fun e he => ?_⟩
    · rw [me_raise, me_clearCoef]; rfl
    · rw [engine_raise_other s.clearCoef code he, engine_clearCoef_other s he]
  | ok u =>
    have effect := residualEffect_ok h
    have cleared : u.clearCoef.me.coef = [] := by simp
    refine ⟨complete 2 u.clearCoef, by simp [exec, execResidual, h], fun a b => ?_, fun e he => ?_⟩
    · rw [me_complete, Engine.coefAt, cleared]; rfl
    · rw [engine_complete_other _ _ (effect.cur_eq ▸ he), effect.engine_other he]

end Sys2Proof.Machine

namespace Sys2Proof.Machine

/-! ## What the host sees of an engine (R28, R240) -/

theorem progressOf_eq_some {v : BitVec 3} {p : Progress} (h : progressOf v = some p) : p.toNat = v.toNat := by
  revert v
  cases p <;> decide

theorem progressOf_eq_none {v : BitVec 3} (h : progressOf v = none) : 4 < v.toNat := by
  revert v; decide

theorem ctbOutside_iff (g : CfgRegs) (rx ry : BitVec 16) :
    CtbOutside g rx ry ↔ g.ctbInside rx.toNat ry.toNat = false := by
  simp only [CtbOutside, CfgRegs.ctbInside, decide_eq_false_iff_not]
  omega

/-- A wait whose checks pass is not reached while the cell is below the value (R226). -/
theorem waitReached_false_iff {s : State} {n : BitVec 5} {value : BitVec 3} {rx ry : BitVec 16} :
    waitReached n value rx ry s = .ok false ↔ n.toNat < s.params.numSlots ∧ (s.slot n).alloc = true ∧
      value.toNat ≤ 4 ∧ ¬ CtbOutside (s.slot n).cfg rx ry ∧
      ((s.slot n).progressAt rx.toNat ry.toNat).toNat < value.toNat := by
  unfold waitReached
  rw [ctbOutside_iff]
  by_cases hn : s.params.numSlots ≤ n.toNat
  · simp [hn]
  by_cases ha : (s.slot n).alloc = false
  · simp [hn, ha]
  rw [if_neg hn, if_neg ha]
  cases hp : progressOf value with
  | none => simp [Nat.not_le.mpr (progressOf_eq_none hp)]
  | some p =>
    have hv : p.toNat = value.toNat := progressOf_eq_some hp
    have hle : p.toNat ≤ 4 := by cases p <;> decide
    by_cases hc : (s.slot n).cfg.ctbInside rx.toNat ry.toNat = false
    · simp [hc]
    · simp [Nat.not_le.mp hn, ha, hc, ← hv, hle]

theorem holds_iff {i : Instr} {s : State} : holds i s = true ↔
    ∃ n value rx ry, i = .waitProgress n value rx ry ∧ waitReached n value rx ry s = .ok false := by
  cases i with
  | waitProgress n value rx ry =>
    simp only [holds, Instr.waitProgress.injEq]
    constructor
    · intro h
      refine ⟨n, value, rx, ry, ⟨rfl, rfl, rfl, rfl⟩, ?_⟩
      split at h
      · assumption
      · cases h
      · cases h
    · rintro ⟨n, value, rx, ry, ⟨rfl, rfl, rfl, rfl⟩, h⟩
      rw [h]
  | _ => simp [holds]

theorem headHolds_iff {s : State} {e : BitVec 5} : headHolds (s.engine e).queue s = true ↔ WaitsAtHead s e := by
  unfold headHolds WaitsAtHead
  cases hd : decode (s.engine e).queue with
  | error => simp
  | ok i => simp only [holds_iff, waitReached_false_iff, Except.ok.injEq]

/-- What decodes is a complete command. -/
theorem holdsCommand_of_decode {q : List Word} {i : Instr} (h : decode q = .ok i) : holdsCommand q = true := by
  unfold decode at h
  unfold holdsCommand
  split at h
  · cases h
  · split at h
    · cases h
    · next r hr =>
      split_ifs at h with hlen
      simpa [hr] using hlen

theorem waitsAtHead_holdsCommand {s : State} {e : BitVec 5} (h : WaitsAtHead s e) :
    holdsCommand (s.engine e).queue = true := by
  obtain ⟨n, value, rx, ry, hd, -⟩ := h
  exact holdsCommand_of_decode hd

theorem engineState_eq (s : State) (e : BitVec 5) : s.engineState e =
    if (s.engine e).faulted = true then .faulted
    else if holdsCommand (s.engine e).queue = false then .idle
    else if headHolds (s.engine e).queue s = true then .held
    else .running := rfl

theorem engineState_faulted_iff {s : State} {e : BitVec 5} :
    s.engineState e = .faulted ↔ (s.engine e).faulted = true := by
  rw [engineState_eq]
  split_ifs with hf <;> simp [hf]

theorem engineState_idle_iff {s : State} {e : BitVec 5} : s.engineState e = .idle ↔
    (s.engine e).faulted = false ∧ holdsCommand (s.engine e).queue = false := by
  rw [engineState_eq]
  split_ifs with hf hc hh <;> simp_all

theorem engineState_held_iff {s : State} {e : BitVec 5} :
    s.engineState e = .held ↔ (s.engine e).faulted = false ∧ WaitsAtHead s e := by
  rw [engineState_eq, ← headHolds_iff]
  split_ifs with hf hc hh
  · simp [hf]
  · have : ¬ headHolds (s.engine e).queue s = true := fun h => by
      rw [waitsAtHead_holdsCommand (headHolds_iff.mp h)] at hc; cases hc
    simp [this]
  · simp [hf, hh]
  · simp [hh]

theorem engineState_running_iff {s : State} {e : BitVec 5} : s.engineState e = .running ↔
    (s.engine e).faulted = false ∧ holdsCommand (s.engine e).queue = true ∧ ¬ WaitsAtHead s e := by
  rw [engineState_eq, ← headHolds_iff]
  split_ifs with hf hc hh <;> simp_all

/-- A STATUS word names exactly one STATE. -/
theorem statusWord_eq_iff (s : State) (e : BitVec 5) (st : EngineState) :
    s.statusWord e = BitVec.ofNat 32 st.code ↔ s.engineState e = st := by
  unfold State.statusWord
  cases s.engineState e <;> cases st <;> decide

theorem statusWord_lt (s : State) (e : BitVec 5) : (s.statusWord e).toNat < 4 := by
  unfold State.statusWord
  cases s.engineState e <;> decide

/-! ## The host's reads and writes of registers (R240) -/

section
variable {s : State} {e n : BitVec 5}

theorem onEngine_present (h : e.toNat < s.params.numEngines) (f : State → State) : onEngine s e f = .next (f s) :=
  if_neg (Nat.not_le.mpr h)

theorem onSlot_present (h : n.toNat < s.params.numSlots) (f : State → State) : onSlot s n f = .next (f s) :=
  if_neg (Nat.not_le.mpr h)

/-- A host operation that replaces engine `e` and returns nothing changes that engine alone. -/
theorem replace_engine_frame (s : State) (e : BitVec 5) (g : Engine) : ∃ t, (s.setEngine e g).replied .done = t ∧
    t = { s with engines := t.engines, reply := .done } ∧ t.engine e = g ∧ ∀ d, d ≠ e → t.engine d = s.engine d :=
  ⟨_, rfl, rfl, engine_setEngine_same s e g, fun _ hd => engine_setEngine_other s g hd⟩

theorem hostPush_full (h : s.params.queueDepth ≤ (s.engine e).queue.length) (w : Word) :
    hostPush e w s = s.replied .full := by
  simp [hostPush, h]

theorem hostPush_room (h : (s.engine e).queue.length < s.params.queueDepth) (w : Word) : hostPush e w s =
    (s.setEngine e { s.engine e with queue := (s.engine e).queue ++ [w] }).replied .done := by
  simp [hostPush, Nat.not_le.mpr h]

/-- A reserved register number reads 0 (I10). -/
theorem cfgRead_reserved (g : CfgRegs) {r : BitVec 8} (h : 6 < r.toNat) : g.read r = 0 := by
  unfold CfgRegs.read
  split
  case h_8 => rfl
  all_goals omega

theorem cfgRead_cases (g : CfgRegs) (r : BitVec 8) :
    (r = 0 → g.read r = g.picWidthReg) ∧ (r = 1 → g.read r = g.picHeightReg) ∧
    (r = 2 → g.read r = g.formatReg) ∧ (r = 3 → g.read r = g.flagsReg) ∧
    (r = 4 → g.read r = g.qpOffsetsReg) ∧ (r = 5 → g.read r = g.strideYReg) ∧
    (r = 6 → g.read r = g.strideCReg) ∧ (6 < r.toNat → g.read r = 0) := by
  refine ⟨?_, ?_, ?_, ?_, ?_, ?_, ?_, cfgRead_reserved g⟩ <;> rintro rfl <;> rfl

theorem hostReadStatus_frame (s : State) (e : BitVec 5) : ∃ v r, hostReadStatus e s = { s with reply := r } ∧
    r = .status v (s.engine e).errCode (s.engine e).errCmd (BitVec.ofNat 32 (s.engine e).irqEn.toNat)
      (s.engine e).cmdCount (s.engine e).queue.length ∧ v.toNat < 4 ∧
    (v = 3 ↔ (s.engine e).faulted = true) ∧
    (v = 0 ↔ (s.engine e).faulted = false ∧ holdsCommand (s.engine e).queue = false) ∧
    (v = 2 ↔ (s.engine e).faulted = false ∧ WaitsAtHead s e) ∧
    (v = 1 ↔ (s.engine e).faulted = false ∧ holdsCommand (s.engine e).queue = true ∧ ¬ WaitsAtHead s e) :=
  ⟨s.statusWord e, _, rfl, rfl, statusWord_lt s e,
    (statusWord_eq_iff s e .faulted).trans engineState_faulted_iff,
    (statusWord_eq_iff s e .idle).trans engineState_idle_iff,
    (statusWord_eq_iff s e .held).trans engineState_held_iff,
    (statusWord_eq_iff s e .running).trans engineState_running_iff⟩

/-- The fields of the word `read_slot` returns: Alloc in bit 0, Done in bit 1, the integrity above. -/
theorem slotWord_fields (a d : Bool) (q : Integrity) (v : Word)
    (hv : v = BitVec.ofNat 32 (a.toNat + 2 * d.toNat + 4 * q.code)) :
    v.getLsbD 0 = a ∧ v.getLsbD 1 = d ∧ v.toNat < 16 ∧ v.toNat / 4 = q.code := by
  subst hv
  cases a <;> cases d <;> cases q <;> decide

theorem progress_toNat_lt (p : Progress) : p.toNat < 2 ^ 32 := by cases p <;> decide

/-- What `read_progress` returns (R240, log 22). -/
theorem hostProgress_cases (sl : Slot) (rx ry : BitVec 16) (v : Word)
    (hv : v = BitVec.ofNat 32 (sl.hostProgress rx.toNat ry.toNat)) :
    (sl.alloc = true → CtbOutside sl.cfg rx ry → v = 0) ∧
    (sl.alloc = true → ¬ CtbOutside sl.cfg rx ry → v.toNat = (sl.progressAt rx.toNat ry.toNat).toNat) ∧
    (sl.alloc = false → v.toNat = (sl.progressAt rx.toNat ry.toNat).toNat) := by
  subst hv
  simp only [Slot.hostProgress, ctbOutside_iff]
  refine ⟨fun ha ho => by simp [ha, ho], fun ha ho => ?_, fun ha => ?_⟩
  · simpa [ha, ho] using progress_toNat_lt _
  · simpa [ha] using progress_toNat_lt _

/-- The interrupt line is high exactly when some engine is FAULTED with its interrupt enabled (R238). -/
theorem irq_iff (h : s.params.numEngines ≤ 32) : s.irq = true ↔
    ∃ d : BitVec 5, d.toNat < s.params.numEngines ∧ (s.engine d).faulted = true ∧ (s.engine d).irqEn = true := by
  simp only [State.irq, List.any_eq_true, List.mem_range, Bool.and_eq_true]
  constructor
  · rintro ⟨k, hk, hf⟩
    exact ⟨BitVec.ofNat 5 k, by rw [BitVec.toNat_ofNat]; omega, hf⟩
  · rintro ⟨d, hd, hf⟩
    exact ⟨d.toNat, hd, by simpa using hf⟩

end

/-- Settles O57, one host operation after the other. -/
theorem hostRegisters : Obligations.HostRegisters := by
  refine ⟨fun s e he => ⟨fun w hq => ?_, fun w hq => ?_, ?_, fun v => ?_⟩,
    fun s n hn => ⟨fun r => ?_, ?_, fun rx ry => ?_⟩, fun s h => irq_iff h⟩
  · rw [hostStep, onEngine_present he, hostPush_full hq]
    rfl
  · obtain ⟨t, ht, frame⟩ := replace_engine_frame s e { s.engine e with queue := (s.engine e).queue ++ [w] }
    exact ⟨t, by rw [hostStep, onEngine_present he, hostPush_room hq, ht], frame⟩
  · obtain ⟨v, r, hr, fields⟩ := hostReadStatus_frame s e
    exact ⟨v, r, by rw [hostStep, onEngine_present he, hr], fields⟩
  · obtain ⟨t, ht, frame⟩ := replace_engine_frame s e { s.engine e with irqEn := v.getLsbD 0 }
    exact ⟨t, by rw [hostStep, onEngine_present he, hostWriteCtrl, ht], frame⟩
  · exact ⟨_, onSlot_present hn _, cfgRead_cases _ r⟩
  · refine ⟨_, onSlot_present hn _, ?_⟩
    obtain ⟨alloc, done, small, code⟩ := slotWord_fields (s.slot n).alloc (s.slot n).done (s.slot n).integrity _ rfl
    refine ⟨alloc, done, small, code.trans ?_⟩
    cases (s.slot n).integrity <;> rfl
  · exact ⟨_, onSlot_present hn _, hostProgress_cases _ rx ry _ rfl⟩

end Sys2Proof.Machine

namespace Sys2Proof.Machine

/-! ## Values of the sample range (R31)

`InRange bd v`: `v` is a sample of bit depth `bd`. What a command writes is a clip, a stored sample, or a rounded
average of samples, so it stays in the range. -/

/-- `v` is a value of the sample range of bit depth `bd`. -/
def InRange (bd : Nat) (v : Int) : Prop := 0 ≤ v ∧ v < 2 ^ bd

section
variable {bd : Nat}

theorem two_pow_pos_int (k : Nat) : (0 : Int) < 2 ^ k := by positivity

theorem shr_eq_div (a : Int) (k : Nat) : shr a k = a / 2 ^ k := Int.shiftRight_eq_div_pow a k

theorem InRange.shr {a : Int} {k : Nat} (h0 : 0 ≤ a) (h1 : a < 2 ^ bd * 2 ^ k) : InRange bd (shr a k) := by
  rw [shr_eq_div]
  exact ⟨Int.ediv_nonneg h0 (two_pow_pos_int k).le, Int.ediv_lt_of_lt_mul (two_pow_pos_int k) h1⟩

theorem InRange.clip3 {x : Int} : InRange bd (clip3 0 (2 ^ bd - 1) x) := by
  have := two_pow_pos_int bd
  unfold Machine.clip3 InRange
  split_ifs <;> omega

theorem InRange.clip1 {x : Int} : InRange bd (clip1 bd x) := InRange.clip3

theorem InRange.readSample (s : State) (use a : Nat) : InRange bd (s.readSample use bd a) := by
  have cast (m : Nat) : InRange bd (Int.ofNat (m % 2 ^ bd)) :=
    ⟨Int.natCast_nonneg _, by rw [Int.ofNat_eq_natCast]; exact_mod_cast Nat.mod_lt m (Nat.two_pow_pos bd)⟩
  unfold State.readSample
  split
  · exact cast _
  · exact cast _

theorem InRange.sample (s : State) (n : BitVec 5) (set : PlaneSet) (c x y use : Nat) :
    InRange ((s.slot n).cfg.bitDepth c) (s.sample n set c x y use) := InRange.readSample s use _

/-- A weighted sample lies between 0 and its weight times the largest sample. -/
theorem InRange.mul {v w : Int} (h : InRange bd v) (hw : 0 ≤ w) : 0 ≤ w * v ∧ w * v ≤ w * (2 ^ bd - 1) :=
  ⟨Int.mul_nonneg hw h.1, Int.mul_le_mul_of_nonneg_left (Int.le_sub_one_of_lt h.2) hw⟩

/-- A rounded average of two samples whose weights add up to the divisor. -/
theorem InRange.average {wa wb a b r : Int} {k : Nat} (ha : InRange bd a) (hb : InRange bd b) (hwa : 0 ≤ wa)
    (hwb : 0 ≤ wb) (sum : wa + wb = 2 ^ k) (hr : 0 ≤ r ∧ r < 2 ^ k) :
    InRange bd (Machine.shr (wa * a + wb * b + r) k) := by
  obtain ⟨a0, a1⟩ := ha.mul hwa
  obtain ⟨b0, b1⟩ := hb.mul hwb
  refine InRange.shr (by omega) ?_
  calc wa * a + wb * b + r < wa * (2 ^ bd - 1) + wb * (2 ^ bd - 1) + 2 ^ k := by omega
    _ = (wa + wb) * (2 ^ bd - 1) + 2 ^ k := by ring
    _ = 2 ^ bd * 2 ^ k := by rw [sum]; ring

/-- Every entry of the list is in range. -/
def AllInRange (bd : Nat) (l : List Int) : Prop := ∀ v ∈ l, InRange bd v

/-- Outside the list an entry reads 0, which is in range as well. -/
theorem AllInRange.entry {l : List Int} (h : AllInRange bd l) (i : Nat) : InRange bd (entry l i) := by
  unfold Machine.entry
  rw [List.getD_eq_getElem?_getD]
  cases hi : l[i]? with
  | none => exact ⟨Int.le_refl 0, two_pow_pos_int bd⟩
  | some v => exact h v (List.mem_of_getElem? hi)

theorem AllInRange.topRef {p : List Int} (h : AllInRange bd p) (N : Nat) (x : Int) : InRange bd (topRef p N x) :=
  h.entry _

theorem AllInRange.leftRef {p : List Int} (h : AllInRange bd p) (N : Nat) (y : Int) : InRange bd (leftRef p N y) :=
  h.entry _

/-! ## Intra prediction (R103 to R111) -/

theorem AllInRange.fillForward {l : List (Option Int)} {prev : Int} (hp : InRange bd prev)
    (h : ∀ v, some v ∈ l → InRange bd v) : AllInRange bd (fillForward prev l) := by
  induction l generalizing prev with
  | nil => intro v hv; simp [Machine.fillForward] at hv
  | cons o t ih =>
    have tail : ∀ v, some v ∈ t → InRange bd v := fun v hv => h v (List.mem_cons_of_mem _ hv)
    cases o with
    | none => exact List.forall_mem_cons.mpr ⟨hp, ih hp tail⟩
    | some v =>
      have hv := h v List.mem_cons_self
      exact List.forall_mem_cons.mpr ⟨hv, ih hv tail⟩

theorem firstAvailable_mem {l : List (Option Int)} {v : Int} (h : firstAvailable l = some v) : some v ∈ l := by
  induction l with
  | nil => cases h
  | cons o t ih =>
    cases o with
    | none => exact List.mem_cons_of_mem _ (ih h)
    | some w => cases h; exact List.mem_cons_self

theorem AllInRange.substitute {l : List (Option Int)} (hbd : 1 ≤ bd) (h : ∀ v, some v ∈ l → InRange bd v) :
    AllInRange bd (substitute bd l) := by
  have grey : InRange bd (2 ^ (bd - 1)) :=
    ⟨(two_pow_pos_int _).le, pow_lt_pow_right₀ (by norm_num) (by omega)⟩
  unfold Machine.substitute
  split
  · intro v hv
    obtain ⟨_, -, rfl⟩ := List.mem_map.mp hv
    exact grey
  · next v hv => exact AllInRange.fillForward (h v (firstAvailable_mem hv)) h

theorem AllInRange.normalFilter {p : List Int} (h : AllInRange bd p) (N : Nat) : AllInRange bd (normalFilter N p) := by
  intro v hv
  obtain ⟨k, -, rfl⟩ := List.mem_map.mp hv
  split_ifs
  · exact h.entry k
  · obtain ⟨a0, a1⟩ := h.entry (k - 1)
    obtain ⟨b0, b1⟩ := h.entry k
    obtain ⟨c0, c1⟩ := h.entry (k + 1)
    exact InRange.shr (by omega) (by omega)

theorem AllInRange.strongFilter {p : List Int} (h : AllInRange bd p) : AllInRange bd (strongFilter p) := by
  intro v hv
  obtain ⟨k, hk, rfl⟩ := List.mem_map.mp hv
  obtain ⟨j, hj, rfl⟩ : ∃ j : Nat, j < 129 ∧ k = j := by simpa using hk
  dsimp only
  split_ifs
  · exact h.entry _
  · exact InRange.average (h.entry _) (h.entry _) (by omega) (by omega) (by ring) (by norm_num)
  · exact h.entry _
  · exact h.entry _
  · exact InRange.average (h.entry _) (h.entry _) (by omega) (by omega) (by ring) (by norm_num)

theorem AllInRange.filteredRefs {p : List Int} (h : AllInRange bd p) (g : CfgRegs) (c mode N : Nat) :
    AllInRange bd (filteredRefs g c mode N p) := by
  unfold Machine.filteredRefs
  split_ifs
  · exact h.strongFilter
  · exact h.normalFilter N
  · exact h

theorem sumTo_bounds {f : Nat → Int} {b : Int} (h : ∀ i, 0 ≤ f i ∧ f i ≤ b) (n : Nat) :
    0 ≤ sumTo n f ∧ sumTo n f ≤ n * b := by
  induction n with
  | zero => simp [sumTo]
  | succ n ih =>
    have step : ((n + 1 : Nat) : Int) * b = n * b + b := by push_cast; ring
    have := h n
    rw [step]
    simp only [sumTo]
    omega

theorem InRange.planarSample {p : List Int} (h : AllInRange bd p) {k x y : Nat} (hx : x < 2 ^ k) (hy : y < 2 ^ k) :
    InRange bd (planarSample p k x y) := by
  have hx' : (x : Int) < 2 ^ k := by exact_mod_cast hx
  have hy' : (y : Int) < 2 ^ k := by exact_mod_cast hy
  unfold Machine.planarSample
  dsimp only
  push_cast
  obtain ⟨a0, a1⟩ := (h.leftRef (2 ^ k) y).mul (w := 2 ^ k - 1 - x) (by omega)
  obtain ⟨b0, b1⟩ := (h.topRef (2 ^ k) (2 ^ k)).mul (w := x + 1) (by omega)
  obtain ⟨c0, c1⟩ := (h.topRef (2 ^ k) x).mul (w := 2 ^ k - 1 - y) (by omega)
  obtain ⟨d0, d1⟩ := (h.leftRef (2 ^ k) (2 ^ k)).mul (w := y + 1) (by omega)
  have hN := two_pow_pos_int k
  refine InRange.shr (by omega) ?_
  calc _ ≤ (2 ^ k - 1 - (x : Int)) * (2 ^ bd - 1) + (x + 1) * (2 ^ bd - 1) + (2 ^ k - 1 - y) * (2 ^ bd - 1) +
        (y + 1) * (2 ^ bd - 1) + 2 ^ k := by omega
    _ = 2 ^ bd * 2 ^ (k + 1) - 2 ^ k := by ring
    _ < 2 ^ bd * 2 ^ (k + 1) := by omega

theorem InRange.dcValue {p : List Int} (h : AllInRange bd p) (k : Nat) : InRange bd (dcValue p k) := by
  have bound (v : Int) (hv : InRange bd v) : 0 ≤ v ∧ v ≤ 2 ^ bd - 1 := ⟨hv.1, Int.le_sub_one_of_lt hv.2⟩
  obtain ⟨a0, a1⟩ := sumTo_bounds (fun x : Nat => bound _ (h.topRef (2 ^ k) x)) (2 ^ k)
  obtain ⟨b0, b1⟩ := sumTo_bounds (fun y : Nat => bound _ (h.leftRef (2 ^ k) y)) (2 ^ k)
  have hN := two_pow_pos_int k
  unfold Machine.dcValue
  dsimp only
  push_cast at *
  refine InRange.shr (by omega) ?_
  calc _ ≤ 2 ^ k * (2 ^ bd - 1) + 2 ^ k * (2 ^ bd - 1) + (2 : Int) ^ k := by omega
    _ = 2 ^ bd * 2 ^ (k + 1) - 2 ^ k := by ring
    _ < 2 ^ bd * 2 ^ (k + 1) := by omega

theorem InRange.dcSample {p : List Int} (h : AllInRange bd p) (c k x y : Nat) : InRange bd (dcSample p c k x y) := by
  have dc := InRange.dcValue h k
  have blend {a : Int} (ha : InRange bd a) : InRange bd (Machine.shr (a + 3 * Machine.dcValue p k + 2) 2) := by
    obtain ⟨d0, d1⟩ := dc
    obtain ⟨a0, a1⟩ := ha
    exact InRange.shr (by omega) (by omega)
  unfold Machine.dcSample
  dsimp only
  split_ifs
  · obtain ⟨d0, d1⟩ := dc
    obtain ⟨a0, a1⟩ := h.leftRef (2 ^ k) 0
    obtain ⟨b0, b1⟩ := h.topRef (2 ^ k) 0
    exact InRange.shr (by omega) (by omega)
  · exact blend (h.topRef _ _)
  · exact blend (h.leftRef _ _)
  · exact dc
  · exact dc

theorem InRange.angularSample {main side : Int → Int} (hm : ∀ k, InRange bd (main k)) (hs : ∀ k, InRange bd (side k))
    (mode along away : Nat) : InRange bd (angularSample main side mode along away) := by
  have ref (k : Int) : InRange bd (angularRef main side mode k) := by
    unfold angularRef
    split_ifs
    · exact hm _
    · exact hs _
  have low (a : Int) : lowBits a 5 < 32 := by
    unfold lowBits
    omega
  unfold Machine.angularSample
  refine InRange.average (ref _) (ref _) ?_ (Int.natCast_nonneg _) (by ring) (by norm_num)
  have := low (((away : Int) + 1) * intraPredAngle mode)
  omega

theorem InRange.predictedSample {p : List Int} (h : AllInRange bd p) (c : Nat) {k x y : Nat} (mode : Nat)
    (hx : x < 2 ^ k) (hy : y < 2 ^ k) : InRange bd (predictedSample p bd c k mode x y) := by
  unfold Machine.predictedSample angularPredicted
  dsimp only
  split_ifs
  · exact InRange.planarSample h hx hy
  · exact InRange.dcSample h c k x y
  · exact InRange.clip1
  · exact InRange.angularSample (h.topRef _) (h.leftRef _) mode x y
  · exact InRange.clip1
  · exact InRange.angularSample (h.leftRef _) (h.topRef _) mode y x

theorem AllInRange.intraRefs {s : State} {n : BitVec 5} {c : Nat} (hbd : 1 ≤ (s.slot n).cfg.bitDepth c)
    (x y N k mode : Nat) :
    AllInRange ((s.slot n).cfg.bitDepth c) (intraRefs (s.slot n).cfg (references s n c x y N) c k mode) := by
  refine AllInRange.filteredRefs (AllInRange.substitute hbd fun v hv => ?_) _ c mode _
  obtain ⟨j, -, hj⟩ := List.mem_map.mp hv
  dsimp only at hj
  split_ifs at hj
  cases hj
  exact InRange.sample s n .recon c _ _ 0

/-! ## Inter prediction, SAO -/

theorem InRange.weightedSample (k : Weights) (pf0 pf1 : Bool) (a b : Int) :
    InRange bd (weightedSample k bd pf0 pf1 a b) := by
  unfold Machine.weightedSample weightBi weightUni
  split_ifs <;> exact InRange.clip1

theorem InRange.saoSample (s : State) (n : BitVec 5) (c : Nat) (r : SaoRec) (x y : Nat) :
    InRange ((s.slot n).cfg.bitDepth c) (saoSample s n c r x y) := by
  have stored := InRange.sample s n .recon c x y (3 * cellKey x y)
  unfold Machine.saoSample
  dsimp only
  split
  · exact stored
  · split
    · exact stored
    · exact InRange.clip3
    · split <;> exact InRange.clip3

theorem InRange.saoOut (s : State) (n : BitVec 5) (c rx ry x y : Nat) :
    InRange ((s.slot n).cfg.bitDepth c) (saoOut s n c rx ry x y) := by
  unfold Machine.saoOut
  dsimp only
  split_ifs
  · exact InRange.saoSample s n c _ x y
  · exact InRange.sample s n .recon c x y _

/-! ## Deblocking (R178 to R183) -/

/-- Every sample of the line is in range. -/
structure Line.InRange (bd : Nat) (l : Line) : Prop where
  p0 : Machine.InRange bd l.p0
  p1 : Machine.InRange bd l.p1
  p2 : Machine.InRange bd l.p2
  p3 : Machine.InRange bd l.p3
  q0 : Machine.InRange bd l.q0
  q1 : Machine.InRange bd l.q1
  q2 : Machine.InRange bd l.q2
  q3 : Machine.InRange bd l.q3

/-- A filter replaces at most three samples a side, by samples in range. -/
structure LineResult.Fits (bd : Nat) (r : LineResult) : Prop where
  psLength : r.ps.length ≤ 3
  qsLength : r.qs.length ≤ 3
  ps : AllInRange bd r.ps
  qs : AllInRange bd r.qs

theorem readLine_inRange (s : State) (n : BitVec 5) (dir : Bool) (bd c x y k : Nat) :
    (s.readLine n dir bd c x y k).InRange bd := by
  constructor <;> exact InRange.readSample s 0 _

/-- A value clipped to a band around a sample in range, the value in range itself (R180). -/
theorem InRange.near {tc v f : Int} (htc : 0 ≤ tc) (hv : InRange bd v) (hf : InRange bd f) :
    InRange bd (Machine.clip3 (v - 2 * tc) (v + 2 * tc) f) := by
  obtain ⟨v0, v1⟩ := hv
  obtain ⟨f0, f1⟩ := hf
  unfold Machine.clip3 InRange
  split_ifs <;> omega

theorem AllInRange.triple {a b c : Int} (ha : InRange bd a) (hb : InRange bd b) (hc : InRange bd c) :
    AllInRange bd [a, b, c] := by
  simp [AllInRange, ha, hb, hc]

theorem strongLine_fits {tc : Int} (htc : 0 ≤ tc) {l : Line} (h : l.InRange bd) : (strongLine tc l).Fits bd := by
  have bounds := h
  obtain ⟨⟨_, _⟩, ⟨_, _⟩, ⟨_, _⟩, ⟨_, _⟩, ⟨_, _⟩, ⟨_, _⟩, ⟨_, _⟩, ⟨_, _⟩⟩ := bounds
  exact ⟨Nat.le_refl 3, Nat.le_refl 3,
    .triple (.near htc h.p0 (.shr (by omega) (by omega))) (.near htc h.p1 (.shr (by omega) (by omega)))
      (.near htc h.p2 (.shr (by omega) (by omega))),
    .triple (.near htc h.q0 (.shr (by omega) (by omega))) (.near htc h.q1 (.shr (by omega) (by omega)))
      (.near htc h.q2 (.shr (by omega) (by omega)))⟩

theorem weakLine_fits (tc : Int) (dEp dEq : Bool) (l : Line) : (weakLine bd tc dEp dEq l).Fits bd := by
  unfold weakLine
  dsimp only
  split_ifs
  · exact ⟨by simp, by simp, by simp [AllInRange], by simp [AllInRange]⟩
  all_goals exact ⟨by simp, by simp, by simp [AllInRange, InRange.clip1], by simp [AllInRange, InRange.clip1]⟩

theorem lumaLine_fits {tc : Int} (htc : 0 ≤ tc) (d : LumaDecision) {l : Line} (h : l.InRange bd) :
    (lumaLine bd tc d l).Fits bd := by
  cases d with
  | off => exact ⟨by simp [lumaLine], by simp [lumaLine], by simp [lumaLine, AllInRange], by simp [lumaLine, AllInRange]⟩
  | weak dEp dEq => exact weakLine_fits tc dEp dEq l
  | strong => exact strongLine_fits htc h

theorem chromaLine_fits (tc : Int) (l : Line) : (chromaLine bd tc l).Fits bd :=
  ⟨by simp [chromaLine], by simp [chromaLine], by simp [chromaLine, AllInRange, InRange.clip1],
    by simp [chromaLine, AllInRange, InRange.clip1]⟩

theorem tcPrime_nonneg (q : Nat) : 0 ≤ tcPrime q := by
  by_cases h : q ≤ 53
  · revert q; decide
  · unfold tcPrime entry
    rw [List.getD_eq_default _ _ (by simp; omega)]

theorem tcOf_nonneg (bd : Nat) (qp : Int) (g : Segment) : 0 ≤ tcOf bd qp g :=
  Int.mul_nonneg (tcPrime_nonneg _) (two_pow_pos_int _).le

end

end Sys2Proof.Machine

namespace Sys2Proof.Machine

/-! ## Where a command writes

Every write of a sample command is at the address of a sample of an existing plane of the slot it names, in `Out` for
SAO and in `Rec` for the others, and its value is in the plane's range. -/

/-- `w` writes a sample of an existing plane of slot `n`, at coordinates below 65536, with a value of the plane's range
(unless the plane has bit depth 0, which no valid configuration has). -/
def IsSampleWrite (g : CfgRegs) (n : BitVec 5) (set : PlaneSet) (w : Nat × Int) : Prop :=
  ∃ c x y, g.planeExists c = true ∧ x < 65536 ∧ y < 65536 ∧ w.1 = sampleAddr n set c x y ∧
    (1 ≤ g.bitDepth c → InRange (g.bitDepth c) w.2)

theorem planeExists_lt {g : CfgRegs} {c : Nat} (h : g.planeExists c = true) : c < 3 := by
  simp only [CfgRegs.planeExists, decide_eq_true_eq] at h
  omega

theorem planeExists_of_mem_planes {g : CfgRegs} {c : Nat} (h : c ∈ g.planes) : g.planeExists c = true := by
  unfold CfgRegs.planes at h
  simp only [CfgRegs.planeExists, decide_eq_true_eq]
  split_ifs at h with hf
  · simp at h; omega
  · simp at h; omega

theorem planeW_lt (g : CfgRegs) (c : Nat) : g.planeW c < 65536 :=
  Nat.lt_of_le_of_lt (Nat.div_le_self _ _) (bits g.picWidthReg 0 16).isLt

theorem planeH_lt (g : CfgRegs) (c : Nat) : g.planeH c < 65536 :=
  Nat.lt_of_le_of_lt (Nat.div_le_self _ _) (bits g.picHeightReg 0 16).isLt

theorem blockWrites_isSampleWrite {g : CfgRegs} {n : BitVec 5} {set : PlaneSet} {c x0 y0 w h : Nat}
    {f : Nat → Nat → Int} (hc : g.planeExists c = true) (hx : ∀ i < w, x0 + i < 65536) (hy : ∀ j < h, y0 + j < 65536)
    (hf : 1 ≤ g.bitDepth c → ∀ i < w, ∀ j < h, InRange (g.bitDepth c) (f i j)) :
    ∀ p ∈ blockWrites n set c x0 y0 w h f, IsSampleWrite g n set p := by
  intro p hp
  simp only [blockWrites, List.mem_flatMap, List.mem_map, List.mem_range] at hp
  obtain ⟨j, hj, i, hi, rfl⟩ := hp
  exact ⟨c, x0 + i, y0 + j, hc, hx i hi, hy j hj, rfl, fun hbd => hf hbd i hi j hj⟩

/-! ### The segments of DEBLOCK -/

theorem ctbSize_div_dvd {k d m : Nat} (hk : k < 8) (hd : d = 1 ∨ d = 2) (hm : 4 ≤ m) (hp : 0 < 2 ^ k / d / m) :
    4 ∣ 2 ^ k / d := by
  have four : 4 ≤ 2 ^ k / d := hm.trans (Nat.div_pos_iff.mp hp).2
  rcases hd with rfl | rfl <;> interval_cases k <;> omega

theorem subW_cases (g : CfgRegs) (c : Nat) : g.subW c = 1 ∨ g.subW c = 2 := by
  unfold CfgRegs.subW CfgRegs.subWidthC
  split_ifs <;> simp

theorem subH_cases (g : CfgRegs) (c : Nat) : g.subH c = 1 ∨ g.subH c = 2 := by
  unfold CfgRegs.subH CfgRegs.subHeightC
  split_ifs <;> simp

/-- Segments stand at multiples of 4 inside the plane. -/
theorem ctbSegments_place {g : CfgRegs} {dir : Bool} {c rx ry : Nat} {e : Nat × Nat}
    (h : e ∈ ctbSegments g dir c rx ry) : 4 ∣ e.1 ∧ 4 ∣ e.2 ∧ e.1 < g.planeW c ∧ e.2 < g.planeH c := by
  simp only [ctbSegments, List.mem_filter, List.mem_flatMap, List.mem_map, List.mem_range, decide_eq_true_eq] at h
  obtain ⟨⟨j, hj, i, hi, rfl⟩, hw, hh⟩ := h
  have hk : g.log2Ctb < 8 := (bits g.formatReg 10 3).isLt
  have stepX : 4 ∣ (if dir then 4 else 8) := by cases dir <;> decide
  have stepY : 4 ∣ (if dir then 8 else 4) := by cases dir <;> decide
  have wide := ctbSize_div_dvd hk (subW_cases g c) (Nat.le_of_dvd (by cases dir <;> decide) stepX) (Nat.zero_lt_of_lt hi)
  have high := ctbSize_div_dvd hk (subH_cases g c) (Nat.le_of_dvd (by cases dir <;> decide) stepY) (Nat.zero_lt_of_lt hj)
  exact ⟨Nat.dvd_add (Dvd.dvd.mul_left wide rx) (Dvd.dvd.mul_right stepX i),
    Nat.dvd_add (Dvd.dvd.mul_left high ry) (Dvd.dvd.mul_right stepY j), hw, hh⟩

/-- A segment place: a multiple of 4 below 65536, so three samples further on is below 65536 too. -/
theorem segment_room {a i m : Nat} (h4 : 4 ∣ a) (ha : a < m) (hm : m < 65536) (hi : i < 4) : a + i < 65536 := by
  omega

section
variable {g : CfgRegs} {n : BitVec 5} {dir : Bool} {c x y k : Nat}

theorem sideWrites_isSampleWrite {addr : Nat → Nat} {vs : List Int}
    (haddr : ∀ i < vs.length, ∃ x y, x < 65536 ∧ y < 65536 ∧ addr i = sampleAddr n .recon c x y)
    (hc : g.planeExists c = true) (hv : AllInRange (g.bitDepth c) vs) :
    ∀ w ∈ sideWrites addr vs, IsSampleWrite g n .recon w := by
  intro w hw
  obtain ⟨⟨v, i⟩, he, rfl⟩ := List.mem_map.mp hw
  obtain ⟨hi, hvi⟩ := List.mem_zipIdx' he
  obtain ⟨x, y, hx, hy, ha⟩ := haddr i hi
  exact ⟨c, x, y, hc, hx, hy, ha, fun _ => hvi ▸ hv _ (List.getElem_mem hi)⟩

theorem pAddr_isSample (n : BitVec 5) (dir : Bool) (c : Nat) (hx : 4 ∣ x) (hy : 4 ∣ y) (hxw : x < g.planeW c)
    (hyh : y < g.planeH c) (hk : k < 4) (i : Nat) :
    ∃ x' y', x' < 65536 ∧ y' < 65536 ∧ pAddr n dir c x y k i = sampleAddr n .recon c x' y' := by
  have hw := planeW_lt g c
  have hh := planeH_lt g c
  cases dir
  · exact ⟨x - 1 - i, y + k, by omega, segment_room hy hyh hh hk, rfl⟩
  · exact ⟨x + k, y - 1 - i, segment_room hx hxw hw hk, by omega, rfl⟩

theorem qAddr_isSample (n : BitVec 5) (dir : Bool) (c : Nat) (hx : 4 ∣ x) (hy : 4 ∣ y) (hxw : x < g.planeW c)
    (hyh : y < g.planeH c) (hk : k < 4) {i : Nat} (hi : i < 4) :
    ∃ x' y', x' < 65536 ∧ y' < 65536 ∧ qAddr n dir c x y k i = sampleAddr n .recon c x' y' := by
  have hw := planeW_lt g c
  have hh := planeH_lt g c
  cases dir
  · exact ⟨x + i, y + k, segment_room hx hxw hw hi, segment_room hy hyh hh hk, rfl⟩
  · exact ⟨x + k, y + i, segment_room hx hxw hw hk, segment_room hy hyh hh hi, rfl⟩

theorem lineWrites_isSampleWrite (e : Segment) {r : LineResult} (hc : g.planeExists c = true) (hx : 4 ∣ x)
    (hy : 4 ∣ y) (hxw : x < g.planeW c) (hyh : y < g.planeH c) (hk : k < 4) (hr : r.Fits (g.bitDepth c)) :
    ∀ w ∈ lineWrites g e n dir c x y k r, IsSampleWrite g n .recon w := by
  have nothing : AllInRange (g.bitDepth c) [] := fun _ h => by cases h
  intro w hw
  rcases List.mem_append.mp hw with hw | hw
  · refine sideWrites_isSampleWrite (fun i _ => pAddr_isSample n dir c hx hy hxw hyh hk i) hc ?_ w hw
    split_ifs
    · exact nothing
    · exact hr.ps
  · refine sideWrites_isSampleWrite (fun i hi => qAddr_isSample n dir c hx hy hxw hyh hk ?_) hc ?_ w hw
    · have := hr.qsLength
      split_ifs at hi
      · simp at hi
      · omega
    · split_ifs
      · exact nothing
      · exact hr.qs

end

section
variable {s : State} {n : BitVec 5}

theorem lumaSegmentWrites_isSampleWrite {dir : Bool} {x y : Nat} (hx : 4 ∣ x) (hy : 4 ∣ y)
    (hxw : x < (s.slot n).cfg.planeW 0) (hyh : y < (s.slot n).cfg.planeH 0) :
    ∀ w ∈ lumaSegmentWrites s n dir x y, IsSampleWrite (s.slot n).cfg n .recon w := by
  intro w hw
  unfold lumaSegmentWrites at hw
  dsimp only at hw
  split at hw
  · cases hw
  · next e _ =>
    split at hw
    · cases hw
    · obtain ⟨k, hk, hw⟩ := List.mem_flatMap.mp hw
      exact lineWrites_isSampleWrite e (by simp [CfgRegs.planeExists]) hx hy hxw hyh (List.mem_range.mp hk)
        (lumaLine_fits (tcOf_nonneg _ _ _) _ (readLine_inRange s n dir _ 0 x y k)) w hw

theorem chromaSegmentWrites_isSampleWrite {dir : Bool} {c x y : Nat} (hc : (s.slot n).cfg.planeExists c = true)
    (hx : 4 ∣ x) (hy : 4 ∣ y) (hxw : x < (s.slot n).cfg.planeW c) (hyh : y < (s.slot n).cfg.planeH c) :
    ∀ w ∈ chromaSegmentWrites s n dir c x y, IsSampleWrite (s.slot n).cfg n .recon w := by
  intro w hw
  unfold chromaSegmentWrites at hw
  dsimp only at hw
  split at hw
  · cases hw
  · next e _ =>
    split at hw
    · cases hw
    · obtain ⟨k, hk, hw⟩ := List.mem_flatMap.mp hw
      exact lineWrites_isSampleWrite e hc hx hy hxw hyh (List.mem_range.mp hk) (chromaLine_fits _ _) w hw

theorem deblockWrites_isSampleWrite (dir : Bool) (rx ry : Nat) :
    ∀ w ∈ deblockWrites s n dir rx ry, IsSampleWrite (s.slot n).cfg n .recon w := by
  intro w hw
  obtain ⟨c, hc, hplane⟩ := List.mem_flatMap.mp hw
  obtain ⟨e, he, hseg⟩ := List.mem_flatMap.mp hplane
  obtain ⟨hx, hy, hxw, hyh⟩ := ctbSegments_place he
  split_ifs at hseg with h0
  · subst h0
    exact lumaSegmentWrites_isSampleWrite hx hy hxw hyh w hseg
  · exact chromaSegmentWrites_isSampleWrite (planeExists_of_mem_planes hc) hx hy hxw hyh w hseg

/-- The samples of a CTB region lie in the plane (R194). -/
theorem ctbRegion_inside {g : CfgRegs} {r sub len i : Nat} (h : i < g.ctbLength r sub len) :
    g.ctbStart r sub + i < len := by
  unfold CfgRegs.ctbLength at h
  omega

theorem saoWrites_isSampleWrite (rx ry : Nat) :
    ∀ w ∈ saoWrites s n rx ry, IsSampleWrite (s.slot n).cfg n .out w := by
  intro w hw
  obtain ⟨c, hc, hw⟩ := List.mem_flatMap.mp hw
  exact blockWrites_isSampleWrite (planeExists_of_mem_planes hc)
    (fun i hi => (ctbRegion_inside hi).trans (planeW_lt _ c)) (fun j hj => (ctbRegion_inside hj).trans (planeH_lt _ c))
    (fun _ i _ j _ => InRange.saoOut s n c rx ry _ _) w hw

/-- The sample array a command writes: `Out` for SAO, `Rec` for every other. -/
def writtenSet : Instr → PlaneSet
  | .sao _ _ _ => .out
  | _ => .recon

/-- A block inside a plane has coordinates below 65536. -/
theorem BlockInPlane.coordinates {g : CfgRegs} {c k x y : Nat} (h : BlockInPlane g c k x y) :
    (∀ i < 2 ^ k, x + i < 65536) ∧ ∀ j < 2 ^ k, y + j < 65536 := by
  obtain ⟨-, -, -, -, hx, hy⟩ := h
  have hw := planeW_lt g c
  have hh := planeH_lt g c
  exact ⟨fun i hi => by omega, fun j hj => by omega⟩

/-- The component block of a prediction block in the picture has coordinates below 65536. -/
theorem componentBlock_coordinate {x w d i m : Nat} (hm : m < 65536) (hx : x + w ≤ m) (hi : i < w / d) :
    x / d + i < 65536 := by
  have := Nat.div_le_self x d
  have := Nat.div_le_self w d
  omega

/-- Every write of a command is of a sample of its slot, and in range. -/
theorem SampleWrites.isSampleWrite {i : Instr} {ws : List (Nat × Int)} (h : SampleWrites s n i ws) :
    ∀ w ∈ ws, IsSampleWrite (s.slot n).cfg n (writtenSet i) w := by
  cases h with
  | putSample c x y v ready depth =>
    intro w hw
    rw [List.mem_singleton] at hw
    subst hw
    have range : InRange ((s.slot n).cfg.bitDepth c.toNat) (v.toNat : Int) :=
      ⟨Int.natCast_nonneg _, by exact_mod_cast depth⟩
    exact ⟨c.toNat, x.toNat, y.toNat, ready.2.2, x.isLt, y.isLt, rfl, fun _ => range⟩
  | intraPred c k mode x y ready block =>
    exact blockWrites_isSampleWrite ready.2.2 block.coordinates.1 block.coordinates.2
      fun hbd i hi j hj => InRange.predictedSample (AllInRange.intraRefs hbd _ _ _ _ _) _ _ hi hj
  | residual c k tskip qp x y ready block =>
    exact blockWrites_isSampleWrite ready.2.2 block.coordinates.1 block.coordinates.2
      fun _ i _ j _ => InRange.clip1
  | interPred c expl denom x y w h wt0 of0 wt1 of1 ready block =>
    obtain ⟨-, -, -, -, hw, hh⟩ := block
    exact blockWrites_isSampleWrite ready.2.2
      (fun i hi => componentBlock_coordinate (bits (s.slot n).cfg.picWidthReg 0 16).isLt hw hi)
      (fun j hj => componentBlock_coordinate (bits (s.slot n).cfg.picHeightReg 0 16).isLt hh hj)
      fun _ i _ j _ => InRange.weightedSample _ _ _ _ _
  | deblock dir rx ry flight => exact deblockWrites_isSampleWrite dir _ _
  | sao rx ry flight => exact saoWrites_isSampleWrite _ _

theorem SampleWrites.inFlight {i : Instr} {ws : List (Nat × Int)} (h : SampleWrites s n i ws) : InFlight s n := by
  cases h with
  | deblock _ _ _ flight => exact flight
  | sao _ _ flight => exact flight
  | putSample _ _ _ _ ready => exact ready.2.1
  | intraPred _ _ _ _ _ ready => exact ready.2.1
  | residual _ _ _ _ _ _ ready => exact ready.2.1
  | interPred _ _ _ _ _ _ _ _ _ _ _ ready => exact ready.2.1

end

/-! ## Reading a sample back after a command -/

/-- After several writes a sample reads as before, or as one of the writes at its address. -/
theorem memSample_setSamples_cases (m : List Host.Cell) (ws : List (Nat × Int)) {a : Nat} (ha : a % 2 = 0)
    (even : ∀ w ∈ ws, w.1 % 2 = 0) : memSample? (memSetSamples m ws) a = memSample? m a ∨
      ∃ w ∈ ws, w.1 = a ∧ memSample? (memSetSamples m ws) a = some (BitVec.ofInt 16 w.2) := by
  induction ws generalizing m with
  | nil => exact .inl rfl
  | cons w t ih =>
    obtain ⟨hw, ht⟩ := List.forall_mem_cons.mp even
    rcases ih (memSetSample m w.1 (BitVec.ofInt 16 w.2)) ht with h | ⟨v, hv, hva, h⟩
    · by_cases hwa : w.1 = a
      · subst hwa
        exact .inr ⟨w, List.mem_cons_self, rfl, h.trans (memSample_setSample_same m w.1 _)⟩
      · exact .inl (h.trans (memSample_setSample_other m _ hw ha (Ne.symm hwa)))
    · exact .inr ⟨v, List.mem_cons_of_mem _ hv, hva, h⟩

section
variable {g : CfgRegs} {n : BitVec 5} {set : PlaneSet} {ws : List (Nat × Int)}

theorem IsSampleWrite.even {w : Nat × Int} (h : IsSampleWrite g n set w) : w.1 % 2 = 0 := by
  obtain ⟨c, x, y, -, -, -, ha, -⟩ := h
  rw [ha]
  exact sampleAddr_even n set c x y

/-- The two bytes of the write belong to the slot. -/
theorem IsSampleWrite.slot {w : Nat × Int} (h : IsSampleWrite g n set w) :
    w.1 / slotSpan = n.toNat ∧ (w.1 + 1) / slotSpan = n.toNat := by
  have even := h.even
  obtain ⟨c, x, y, hc, hx, hy, ha, -⟩ := h
  have hs : w.1 / slotSpan = n.toNat := ha ▸ sampleAddr_slot n set (Nat.lt_succ_of_lt (planeExists_lt hc)) hx hy
  refine ⟨hs, ?_⟩
  unfold slotSpan at hs ⊢
  omega

/-- Writes to slot `n` change no byte of another slot. -/
theorem memByte_setSamples_other_slot (m : List Host.Cell) (h : ∀ w ∈ ws, IsSampleWrite g n set w) {a : Nat}
    (ha : a / slotSpan ≠ n.toNat) : memByte? (memSetSamples m ws) a = memByte? m a :=
  memByte_setSamples_other m ws fun w hw => by
    obtain ⟨h0, h1⟩ := (h w hw).slot
    exact ⟨fun e => ha (e ▸ h0), fun e => ha (e ▸ h1)⟩

/-- A sample after writes to slot `n`: as before, or a sample of that slot and set with a value in range. -/
theorem memSample_setSamples_range (m : List Host.Cell) (h : ∀ w ∈ ws, IsSampleWrite g n set w) {n' : BitVec 5}
    {set' : PlaneSet} {c x y : Nat} (hc : c < 4) (hx : x < 65536) (hy : y < 65536) :
    memSample? (memSetSamples m ws) (sampleAddr n' set' c x y) = memSample? m (sampleAddr n' set' c x y) ∨
      (n' = n ∧ set' = set ∧ g.planeExists c = true ∧ ∃ v, (1 ≤ g.bitDepth c → InRange (g.bitDepth c) v) ∧
        memSample? (memSetSamples m ws) (sampleAddr n' set' c x y) = some (BitVec.ofInt 16 v)) := by
  rcases memSample_setSamples_cases m ws (sampleAddr_even n' set' c x y) fun w hw => (h w hw).even with
    e | ⟨w, hw, ha, e⟩
  · exact .inl e
  · obtain ⟨c', x', y', hc', hx', hy', ha', hv⟩ := h w hw
    obtain ⟨rfl, rfl, rfl, rfl, rfl⟩ :=
      sampleAddr_inj hc (Nat.lt_succ_of_lt (planeExists_lt hc')) hx hx' hy hy' (ha.symm.trans ha')
    exact .inr ⟨rfl, rfl, hc', w.2, hv, e⟩

end

theorem toNat_ofInt_of_inRange {bd : Nat} {v : Int} (h : InRange bd v) :
    (BitVec.ofInt 16 v).toNat < 2 ^ bd := by
  obtain ⟨v, rfl⟩ := Int.eq_ofNat_of_zero_le h.1
  have hv : v < 2 ^ bd := by exact_mod_cast h.2
  rw [BitVec.ofInt_natCast, BitVec.toNat_ofNat]
  exact Nat.lt_of_le_of_lt (Nat.mod_le _ _) hv

/-! ## Valid configurations -/

theorem validCfg_bitDepth {p : Params} {g : CfgRegs} (h : validCfg p g = none) {c : Nat}
    (hc : g.planeExists c = true) : 8 ≤ g.bitDepth c ∧ g.bitDepth c ≤ 12 := by
  have inRange : g.inRange = true := by
    unfold validCfg at h
    split_ifs at h with h1
    simpa using h1
  simp only [CfgRegs.inRange, Bool.and_eq_true, Bool.or_eq_true, beq_iff_eq, bitDepthOk, decide_eq_true_eq] at inRange
  obtain ⟨⟨⟨⟨⟨⟨⟨-, hY⟩, hC⟩, -⟩, -⟩, -⟩, -⟩, -⟩ := inRange
  simp only [CfgRegs.planeExists, decide_eq_true_eq] at hc
  unfold CfgRegs.bitDepth
  split_ifs <;> omega

theorem State.Legal.validCfg {s : State} (h : s.Legal) {n : BitVec 5} (ha : (s.slot n).alloc = true) :
    Machine.validCfg s.params (s.slot n).cfg = none := by
  have life := h.life n
  simp only [Slot.lifeLegal, ha, Bool.not_true, Bool.false_or, Bool.and_eq_true, decide_eq_true_eq] at life
  exact life.1.1.1

theorem InFlight.alloc {s : State} {n : BitVec 5} (h : InFlight s n) : (s.slot n).alloc = true := by
  have := h.2
  simp only [Slot.inFlight, Bool.and_eq_true] at this
  exact this.1

/-! ## The statements about the memory -/

/-- Settles O12: the slots by `exec_slot_of_not_named`, the bytes by where a command writes. -/
theorem slotIsolation : Obligations.SlotIsolation := by
  intro i s t n h hn
  refine ⟨exec_slot_of_not_named h hn, fun a ha => ?_⟩
  rcases exec_mem_cases h with e | ⟨m, rfl, e⟩ | ⟨m, ws, hw, e⟩
  · rw [e]
  · have hm : n ≠ m := fun e => hn (e ▸ rfl)
    rw [e, memByte_forget, if_neg fun k => hm (BitVec.eq_of_toNat_eq (ha.symm.trans k))]
  · have hm : n ≠ m := fun e => hn (e ▸ hw.named)
    rw [e, memByte_setSamples_other_slot s.mem hw.isSampleWrite fun k => hm (BitVec.eq_of_toNat_eq (ha.symm.trans k))]

/-- A command other than PIC_INIT leaves every sample of the array it does not write. -/
theorem exec_memSample_of_set_ne {i : Instr} {s t : State} (h : exec i s = .next t) (hi : ∀ m, i ≠ .picInit m)
    {n : BitVec 5} {set : PlaneSet} {c x y : Nat} (hset : set ≠ writtenSet i) (hc : c < 4) (hx : x < 65536)
    (hy : y < 65536) : memSample? t.mem (sampleAddr n set c x y) = memSample? s.mem (sampleAddr n set c x y) := by
  rcases exec_mem_cases h with e | ⟨m, rfl, -⟩ | ⟨m, ws, hw, e⟩
  · rw [e]
  · exact absurd rfl (hi m)
  · rw [e]
    rcases memSample_setSamples_range s.mem hw.isSampleWrite hc hx hy with e | ⟨-, e, -⟩
    · exact e
    · exact absurd e hset

/-- Settles O13: both clauses are `exec_memSample_of_set_ne`. -/
theorem onlySaoWritesOut : Obligations.OnlySaoWritesOut := by
  intro i s t n c x y hc hx hy h
  refine ⟨fun hp hs => exec_memSample_of_set_ne h hp ?_ hc hx hy, fun m rx ry hi => ?_⟩
  · cases i with
    | sao m rx ry => exact absurd rfl (hs m rx ry)
    | _ => simp [writtenSet]
  · subst hi
    exact exec_memSample_of_set_ne h (by simp) (by simp [writtenSet]) hc hx hy

theorem memSample_forget_slot (m : List Host.Cell) (n : BitVec 5) (set : PlaneSet) {c x y : Nat} (hc : c < 4)
    (hx : x < 65536) (hy : y < 65536) : memSample? (memForget m n) (sampleAddr n set c x y) = none := by
  rw [memSample?, memByte_forget, if_pos (sampleAddr_slot n set hc hx hy)]

theorem memSample_forget_other (m : List Host.Cell) {n n' : BitVec 5} (hn : n' ≠ n) (set : PlaneSet) {c x y : Nat}
    (hc : c < 4) (hx : x < 65536) (hy : y < 65536) :
    memSample? (memForget m n) (sampleAddr n' set c x y) = memSample? m (sampleAddr n' set c x y) := by
  have slot0 := sampleAddr_slot n' set hc hx hy
  have slot1 : (sampleAddr n' set c x y + 1) / slotSpan = n'.toNat := by
    have even := sampleAddr_even n' set c x y
    unfold slotSpan at slot0 ⊢
    omega
  have ne : n'.toNat ≠ n.toNat := fun e => hn (BitVec.eq_of_toNat_eq e)
  rw [memSample?, memByte_forget, memByte_forget, slot0, slot1, if_neg ne, if_neg ne]
  rfl

/-- Settles O19: what a command writes is in range, and PIC_INIT makes its samples unwritten. -/
theorem samplesInRange : Obligations.SamplesInRange := by
  intro i s t n set c x y legal h hc hx hy
  have hc4 : c < 4 := Nat.lt_succ_of_lt hc
  rcases exec_mem_cases h with e | ⟨m, rfl, e⟩ | ⟨m, ws, hw, e⟩
  · exact .inl (by rw [e])
  · rw [e]
    by_cases hm : n = m
    · subst hm
      exact .inr (.inl (memSample_forget_slot s.mem n set hc4 hx hy))
    · exact .inl (memSample_forget_other s.mem hm set hc4 hx hy)
  · rw [e]
    rcases memSample_setSamples_range (n' := n) (set' := set) s.mem hw.isSampleWrite hc4 hx hy with
      e | ⟨rfl, -, hp, v, hv, e⟩
    · exact .inl e
    · obtain ⟨lo, hi⟩ := validCfg_bitDepth (legal.validCfg hw.inFlight.alloc) hp
      exact .inr (.inr ⟨_, e, toNat_ofInt_of_inRange (hv (by omega))⟩)

end Sys2Proof.Machine

namespace Sys2Proof.Machine

/-! ## The legal slot

`Slot.Legal` is what `State.Legal` asks of one slot, field by field, so that an edit of a slot states only what it
changes. -/

/-- The tables of the slot are canonical, its records are ones a command writes, and its life cycle is legal. -/
structure Slot.Legal (p : Params) (sl : Slot) : Prop where
  blocksWf : tableWf MetaRec.reset sl.blocks = true
  ctbsWf : tableWf CtbRec.reset sl.ctbs = true
  slicesWf : tableWf SliceRec.reset sl.slices = true
  saosWf : tableWf SaoRec.reset sl.saos = true
  progressWf : tableWf Progress.none sl.progress = true
  scalingWf : tableWf scalingReset sl.scaling = true
  blocks : sl.blocks.all (fun e => e.2.legal p) = true
  ctbs : sl.ctbs.all (fun e => e.2.legal p) = true
  slices : sl.slices.all (fun e => e.2.legal) = true
  saos : sl.saos.all (fun e => e.2.legal) = true
  scaling : sl.scaling.all (fun e => e.2 != 0) = true
  cfg : sl.alloc = true → validCfg p sl.cfg = none
  qps : sl.alloc = true → sl.blocks.all (fun e => qpYInRange sl.cfg e.2) = true
  flight : sl.inFlight = true → sl.integrity ≠ .decoded
  finished : sl.done = true → sl.integrity ≠ .notDecoded

theorem Slot.legal_iff {p : Params} {sl : Slot} :
    sl.Legal p ↔ sl.tablesWf = true ∧ sl.recordsLegal p = true ∧ sl.lifeLegal p = true := by
  have guard (a b : Bool) : (!a || b) = true ↔ (a = true → b = true) := by cases a <;> simp
  simp only [Slot.tablesWf, Slot.recordsLegal, Slot.lifeLegal, Bool.and_eq_true, guard, decide_eq_true_eq]
  constructor
  · intro h
    exact ⟨⟨⟨⟨⟨⟨h.blocksWf, h.ctbsWf⟩, h.slicesWf⟩, h.saosWf⟩, h.progressWf⟩, h.scalingWf⟩,
      ⟨⟨⟨⟨h.blocks, h.ctbs⟩, h.slices⟩, h.saos⟩, h.scaling⟩,
      ⟨fun ha => ⟨h.cfg ha, h.qps ha⟩, h.flight⟩, h.finished⟩
  · rintro ⟨⟨⟨⟨⟨⟨w1, w2⟩, w3⟩, w4⟩, w5⟩, w6⟩, ⟨⟨⟨⟨r1, r2⟩, r3⟩, r4⟩, r5⟩, ⟨life, flight⟩, finished⟩
    exact ⟨w1, w2, w3, w4, w5, w6, r1, r2, r3, r4, r5, fun ha => (life ha).1, fun ha => (life ha).2, flight, finished⟩

theorem Slot.legal_reset (p : Params) : Slot.reset.Legal p where
  blocksWf := rfl
  ctbsWf := rfl
  slicesWf := rfl
  saosWf := rfl
  progressWf := rfl
  scalingWf := rfl
  blocks := rfl
  ctbs := rfl
  slices := rfl
  saos := rfl
  scaling := rfl
  cfg := fun ha => by cases ha
  qps := fun ha => by cases ha
  flight := fun hf => by cases hf
  finished := fun hd => by cases hd

theorem Slot.legal_fresh {p : Params} {g : CfgRegs} (h : validCfg p g = none) : (Slot.fresh g).Legal p :=
  { Slot.legal_reset p with
    cfg := fun _ => h
    qps := fun _ => rfl
    flight := fun _ => by simp [Slot.fresh, Slot.reset] }

/-! ### The records a command writes -/

theorem Params.numSlots_pos {p : Params} (h : p.legal = true) : 0 < p.numSlots := by
  simp only [Params.legal, decide_eq_true_eq] at h
  omega

theorem MetaRec.reset_legal {p : Params} (h : p.legal = true) : MetaRec.reset.legal p = true := by
  simp [MetaRec.legal, MetaRec.reset, Params.numSlots_pos h]

theorem MetaRec.reset_qpYInRange {p : Params} {g : CfgRegs} (h : validCfg p g = none) :
    qpYInRange g MetaRec.reset = true := by
  have := (validCfg_bitDepth h (c := 0) (by simp [CfgRegs.planeExists])).1
  have zero : MetaRec.reset.qpY.toInt = 0 := by decide
  simp only [qpYInRange, CfgRegs.qpBdOffset, zero, decide_eq_true_eq]
  omega

theorem MetaRec.withCu_legal {p : Params} {m : MetaRec} {intra pcm bypass : Bool} {q : BitVec 7}
    (hp : pcm = true → intra = true) (h : m.legal p = true) : (m.withCu intra pcm bypass q).legal p = true := by
  simp only [MetaRec.legal, MetaRec.withCu, Bool.and_eq_true] at h ⊢
  obtain ⟨⟨⟨-, refs⟩, l0⟩, l1⟩ := h
  exact ⟨⟨⟨by cases pcm <;> simp_all, refs⟩, l0⟩, l1⟩

theorem MetaRec.withMotion_legal {p : Params} {m : MetaRec} {pf0 pf1 : Bool} {ref0 ref1 : BitVec 5} {mv0 mv1 : Mv}
    (hp : p.legal = true) (h0 : ref0.toNat < p.numSlots) (h1 : ref1.toNat < p.numSlots) (h : m.legal p = true) :
    (m.withMotion pf0 pf1 ref0 ref1 mv0 mv1).legal p = true := by
  have := Params.numSlots_pos hp
  simp only [MetaRec.legal, MetaRec.withMotion, Bool.and_eq_true] at h ⊢
  obtain ⟨⟨⟨pcm, -⟩, -⟩, -⟩ := h
  refine ⟨⟨⟨pcm, ?_⟩, ?_⟩, ?_⟩
  · cases pf0 <;> cases pf1 <;> simp_all
  · cases pf0 <;> simp
  · cases pf1 <;> simp

theorem saoRecord_legal (ty : BitVec 2) (pos : BitVec 5) (o1 o2 o3 o4 : BitVec 8) :
    (saoRecord ty pos o1 o2 o3 o4).legal = true := by
  unfold saoRecord
  split
  · simp [SaoRec.legal]
  · simp [SaoRec.legal]
  · decide

/-! ### The edits of a slot -/

section
variable {p : Params} {sl : Slot}

theorem Slot.Legal.modifyBlocks (h : sl.Legal p) (hp : p.legal = true) (x y w ht : Nat) (f : MetaRec → MetaRec)
    (hf : ∀ m, m.legal p = true → (f m).legal p = true)
    (hq : ∀ m, qpYInRange sl.cfg m = true → qpYInRange sl.cfg (f m) = true) : (sl.modifyBlocks x y w ht f).Legal p :=
  { h with
    blocksWf := tableWf_modify h.blocksWf _ f
    blocks := all_tableModify h.blocks (MetaRec.reset_legal hp) hf _
    qps := fun ha => all_tableModify (h.qps ha) (MetaRec.reset_qpYInRange (h.cfg ha)) hq _ }

theorem Slot.Legal.markedTb (h : sl.Legal p) (hp : p.legal = true) (x y T : Nat) (nz : Bool) :
    (sl.markedTb x y T nz).Legal p := by
  have left := h.modifyBlocks hp x y 4 T MetaRec.withTbEdgeV (fun _ hm => hm) (fun _ hm => hm)
  have top := left.modifyBlocks hp x y T 4 MetaRec.withTbEdgeH (fun _ hm => hm) (fun _ hm => hm)
  exact top.modifyBlocks hp x y T T (fun m => m.withNz nz) (fun _ hm => hm) (fun _ hm => hm)

theorem Slot.Legal.markedPb (h : sl.Legal p) (hp : p.legal = true) (x y w ht : Nat) (pf0 pf1 : Bool)
    {ref0 ref1 : BitVec 5} (mv0 mv1 : Mv) (h0 : ref0.toNat < p.numSlots) (h1 : ref1.toNat < p.numSlots) :
    (sl.markedPb x y w ht pf0 pf1 ref0 ref1 mv0 mv1).Legal p := by
  have left := h.modifyBlocks hp x y 4 ht MetaRec.withPbEdgeV (fun _ hm => hm) (fun _ hm => hm)
  have top := left.modifyBlocks hp x y w 4 MetaRec.withPbEdgeH (fun _ hm => hm) (fun _ hm => hm)
  exact top.modifyBlocks hp x y w ht (fun m => m.withMotion pf0 pf1 ref0 ref1 mv0 mv1)
    (fun _ hm => MetaRec.withMotion_legal hp h0 h1 hm) (fun _ hm => hm)

theorem Slot.inFlight_iff (sl : Slot) : sl.inFlight = true ↔ sl.alloc = true ∧ sl.done = false := by
  simp [Slot.inFlight]

theorem SlotEdit.legal {s : State} {i : Instr} {n : BitVec 5} (edit : SlotEdit s n i sl) (hp : s.params.legal = true)
    (h : (s.slot n).Legal s.params) : sl.Legal s.params := by
  cases edit with
  | regWrite reg value free =>
    have locked {P : Prop} (ha : (s.slot n).alloc = true) : P := by rw [free] at ha; cases ha
    exact { h with cfg := fun ha => locked ha, qps := fun ha => locked ha }
  | picInit free valid => exact Slot.legal_fresh valid
  | picDone flight =>
    have started : (s.slot n).integrity ≠ .decoded := h.flight flight.2
    exact { h with
      flight := fun hf => by simp [Slot.inFlight] at hf
      finished := fun _ => by cases hq : (s.slot n).integrity <;> simp [Integrity.completed] }
  | picFree held =>
    exact { h with
      cfg := fun ha => by cases ha
      qps := fun ha => by cases ha
      flight := fun hf => by simp [Slot.inFlight] at hf }
  | setCtb rx ry addr slice tile flight sliceOk tileOk =>
    exact { h with
      ctbsWf := tableWf_set h.ctbsWf _ _
      ctbs := all_tableSet h.ctbs (by simp [CtbRec.legal, sliceOk, tileOk]) _ }
  | setSlice idx dbkDis lfAcross saoL saoC beta tc flight betaOk tcOk =>
    exact { h with
      slicesWf := tableWf_set h.slicesWf _ _
      slices := all_tableSet h.slices (by simp [SliceRec.legal, betaOk, tcOk]) _ }
  | setCu k intra pcm bypass q x y flight qpOk pcmOk =>
    exact h.modifyBlocks hp _ _ _ _ _ (fun _ => MetaRec.withCu_legal pcmOk) (fun _ _ => decide_eq_true qpOk)
  | markTb k nz x y flight => exact h.markedTb hp _ _ _ nz
  | markPb pf0 pf1 ref0 ref1 x y w ht mv0x mv0y mv1x mv1y flight ref0Ok ref1Ok =>
    exact h.markedPb hp _ _ _ _ pf0 pf1 _ _ ref0Ok ref1Ok
  | setSao c ty pos rx ry o1 o2 o3 o4 flight =>
    exact { h with
      saosWf := tableWf_set h.saosWf _ _
      saos := all_tableSet h.saos (saoRecord_legal ty pos o1 o2 o3 o4) _ }
  | setScaling z m x y v flight valueOk =>
    exact { h with
      scalingWf := tableWf_set h.scalingWf _ _
      scaling := all_tableSet (p := fun v => v != 0) h.scaling (by simpa using valueOk) _ }
  | setProgress value rx ry v flight named raised => exact { h with progressWf := tableWf_set h.progressWf _ _ }

theorem Regraded.legal {s : State} {i : Instr} {n : BitVec 5} (graded : Regraded s n i sl)
    (h : (s.slot n).Legal s.params) : sl.Legal s.params := by
  obtain ⟨-, ⟨-, hf⟩, q, hq, rfl⟩ := graded
  have running : (s.slot n).done = false := ((Slot.inFlight_iff _).mp hf).2
  exact { h with
    flight := fun _ => by
      rcases hq with rfl | hq
      · exact h.flight hf
      · rintro rfl
        cases hq
    finished := fun hd => by
      rw [running] at hd
      cases hd }

end

/-! ## The legal memory: samples are written whole (R32) -/

theorem sparseFind_isSome_iff {α : Type} {l : Sparse α} {k : Nat} :
    (sparseFind? l k).isSome = true ↔ ∃ e ∈ l, e.1 = k := by
  induction l with
  | nil => simp [sparseFind?]
  | cons e t ih =>
    by_cases h : k = e.1
    · simp [sparseFind?, h]
    · simp [sparseFind?, h, ih, Ne.symm h]

/-- The byte at an address is written. -/
def Written (m : List Host.Cell) (a : Nat) : Prop := (memByte? m a).isSome = true

/-- A sample has both bytes or none. -/
theorem memPaired_iff {m : List Host.Cell} :
    memPaired m = true ↔ ∀ a, a % 2 = 0 → (Written m a ↔ Written m (a + 1)) := by
  have listed (c : Host.Cell) (hc : c ∈ m) : Written m c.1 := sparseFind_isSome_iff.mpr ⟨c, hc, rfl⟩
  simp only [memPaired, List.all_eq_true]
  constructor
  · intro h a ha
    constructor
    · intro hw
      obtain ⟨c, hc, rfl⟩ := sparseFind_isSome_iff.mp hw
      simpa [ha, Written] using h c hc
    · intro hw
      obtain ⟨c, hc, hca⟩ := sparseFind_isSome_iff.mp hw
      have partner := h c hc
      rwa [hca, if_neg (by omega), Nat.add_sub_cancel] at partner
  · intro h c hc
    split_ifs with even
    · exact (h c.1 even).mp (listed c hc)
    · refine (h (c.1 - 1) (by omega)).mpr ?_
      rw [Nat.sub_add_cancel (by omega)]
      exact listed c hc

theorem written_setByte {m : List Host.Cell} {a p : Nat} {b : Byte} :
    Written (memSetByte m a b) p ↔ p = a ∨ Written m p := by
  by_cases h : p = a
  · subst h
    simp [Written]
  · simp [Written, memByte_setByte_other m b h, h]

theorem written_setSample {m : List Host.Cell} {a p : Nat} {v : BitVec 16} :
    Written (memSetSample m a v) p ↔ p = a ∨ p = a + 1 ∨ Written m p := by
  rw [memSetSample, written_setByte, written_setByte]
  exact or_left_comm

/-- Writing the two bytes of a sample keeps samples whole. -/
theorem memPaired_of_written {m m' : List Host.Cell} (h : memPaired m = true) {a : Nat} (ha : a % 2 = 0)
    (hw : ∀ p, Written m' p ↔ p = a ∨ p = a + 1 ∨ Written m p) : memPaired m' = true := by
  rw [memPaired_iff] at h ⊢
  intro p hp
  rw [hw, hw, h p hp, ← or_assoc, ← or_assoc]
  exact or_congr_left (by omega)

theorem memPaired_setSamples {m : List Host.Cell} (h : memPaired m = true) {ws : List (Nat × Int)}
    (even : ∀ w ∈ ws, w.1 % 2 = 0) : memPaired (memSetSamples m ws) = true := by
  induction ws generalizing m with
  | nil => exact h
  | cons w t ih =>
    obtain ⟨hw, ht⟩ := List.forall_mem_cons.mp even
    exact ih (memPaired_of_written h hw fun _ => written_setSample) ht

theorem memPaired_forget {m : List Host.Cell} (h : memPaired m = true) (n : BitVec 5) :
    memPaired (memForget m n) = true := by
  rw [memPaired_iff] at h ⊢
  intro a ha
  have same : (a + 1) / slotSpan = a / slotSpan := by
    unfold slotSpan
    omega
  unfold Written
  rw [memByte_forget, memByte_forget, same]
  split_ifs
  · rfl
  · exact h a ha

/-! ### Host writes -/

theorem written_hostSetByte (s : State) (m : List Host.Cell) (phys : Nat) (n : BitVec 5) (set : PlaneSet)
    (c x y : Nat) {i : Nat} (hi : i < 2) (v : Byte) (p : Nat) :
    Written (s.hostSetByte m phys (.sample n set c x y i) v) p ↔
      p = sampleAddr n set c x y ∨ p = sampleAddr n set c x y + 1 ∨ Written m p := by
  simp only [State.hostSetByte]
  split_ifs with hb
  · exact written_setSample
  · rw [written_setByte]
    split
    · next b hother =>
      have other : Written m (sampleAddr n set c x y + (1 - i)) := by simp [Written, hother]
      constructor
      · rintro (rfl | h)
        · omega
        · exact .inr (.inr h)
      · intro h
        by_cases hp : p = sampleAddr n set c x y + i
        · exact .inl hp
        · by_cases ho : p = sampleAddr n set c x y + (1 - i)
          · exact .inr (ho ▸ other)
          · right
            rcases h with h | h | h
            · omega
            · omega
            · exact h
    · rw [written_setByte, ← or_assoc, ← or_assoc]
      exact or_congr_left (by omega)

theorem memPaired_hostSetByte (s : State) {m : List Host.Cell} (h : memPaired m = true) (phys : Nat) (b : WindowByte)
    (v : Byte) (hb : ∀ n set c x y i, b = .sample n set c x y i → i < 2) :
    memPaired (s.hostSetByte m phys b v) = true := by
  cases b with
  | sample n set c x y i =>
    exact memPaired_of_written h (sampleAddr_even n set c x y)
      (written_hostSetByte s m phys n set c x y (hb _ _ _ _ _ _ rfl) v)
  | padding => exact h
  | outside => exact h

/-- A sample has one or two bytes in the window (R51). -/
theorem windowBytes_byte_lt {s : State} {a : BitVec 40} {k : Nat} {n : BitVec 5} {set : PlaneSet} {c x y i : Nat}
    (h : .sample n set c x y i ∈ s.windowBytes a k) : i < 2 := by
  have bps_pos (g : CfgRegs) (c : Nat) : 0 < g.bps c := by unfold CfgRegs.bps; split_ifs <;> decide
  have bps_le (g : CfgRegs) (c : Nat) : g.bps c ≤ 2 := by unfold CfgRegs.bps; split_ifs <;> decide
  obtain ⟨j, -, hj⟩ := List.mem_map.mp h
  unfold State.windowByte at hj
  dsimp only at hj
  split_ifs at hj
  cases hj
  exact Nat.lt_of_lt_of_le (Nat.mod_lt _ (bps_pos _ _)) (bps_le _ _)

/-- A host write keeps the memory canonical and its samples whole. -/
theorem hostMemWrite_mem {s : State} (wf : memWf s.mem = true) (paired : memPaired s.mem = true) (a : BitVec 40)
    (k : Nat) (v : Word) :
    memWf (hostMemWrite a k v s).mem = true ∧ memPaired (hostMemWrite a k v s).mem = true := by
  have fold (l : List (WindowByte × Nat)) (hl : ∀ b ∈ l, b.1 ∈ s.windowBytes a k) (m : List Host.Cell)
      (hm : memWf m = true ∧ memPaired m = true) :
      memWf (l.foldl (fun m b => s.hostSetByte m (a.toNat + b.2) b.1 (v.extractLsb' (8 * b.2) 8)) m) = true ∧
      memPaired (l.foldl (fun m b => s.hostSetByte m (a.toNat + b.2) b.1 (v.extractLsb' (8 * b.2) 8)) m) = true := by
    induction l generalizing m with
    | nil => exact hm
    | cons b t ih =>
      obtain ⟨hb, ht⟩ := List.forall_mem_cons.mp hl
      exact ih ht _ ⟨memWf_hostSetByte hm.1 s _ _ _, memPaired_hostSetByte s hm.2 _ _ _
        fun _ _ _ _ _ _ e => windowBytes_byte_lt (e ▸ hb)⟩
  unfold hostMemWrite
  split_ifs
  · exact ⟨wf, paired⟩
  · refine fold _ (fun b hb => ?_) s.mem ⟨wf, paired⟩
    exact List.fst_mem_of_mem_zipIdx hb

/-! ## The legal state -/

section
variable {s t u : State} {i : Instr}

theorem State.Legal.slot (h : s.Legal) (n : BitVec 5) : (s.slot n).Legal s.params :=
  Slot.legal_iff.mpr ⟨h.tables n, h.records n, h.life n⟩

/-- A legal state from its parts. -/
theorem State.Legal.of_parts (params : s.params.legal = true) (memory : memWf s.mem = true)
    (samples : memPaired s.mem = true) (slots : ∀ n, (s.slot n).Legal s.params)
    (engines : ∀ e, (s.engine e).legal s.params = true) (warnings : s.warn.length ≤ s.params.warnDepth)
    (warningCodes : ∀ w ∈ s.warn, w = 1011 ∨ w = 1012) : s.Legal where
  params := params
  memory := memory
  samples := samples
  tables := fun n => (Slot.legal_iff.mp (slots n)).1
  records := fun n => (Slot.legal_iff.mp (slots n)).2.1
  life := fun n => (Slot.legal_iff.mp (slots n)).2.2
  engines := engines
  warnings := warnings
  warningCodes := warningCodes

/-- Legality does not look at the model's own fields (log 2, 3, 17). -/
theorem State.Legal.congr (h : s.Legal) (params : t.params = s.params) (mem : t.mem = s.mem)
    (slots : t.slots = s.slots) (engines : t.engines = s.engines) (warn : t.warn = s.warn) : t.Legal := by
  have engine (e : BitVec 5) : t.engine e = s.engine e := by simp only [State.engine, engines]
  refine .of_parts (params ▸ h.params) (mem ▸ h.memory) (mem ▸ h.samples) (fun n => ?_) (fun e => ?_) ?_ ?_
  · rw [params, slot_eq_of_slots_eq slots]
    exact h.slot n
  · rw [params, engine]
    exact h.engines e
  · rw [params, warn]
    exact h.warnings
  · rw [warn]
    exact h.warningCodes

theorem State.Legal.setEngine (h : s.Legal) {e : BitVec 5} {g : Engine} (hg : g.legal s.params = true) :
    (s.setEngine e g).Legal := by
  refine .of_parts h.params h.memory h.samples h.slot (fun d => ?_) h.warnings h.warningCodes
  by_cases hd : d = e
  · subst hd
    rw [engine_setEngine_same]
    exact hg
  · rw [engine_setEngine_other s g hd]
    exact h.engines d

theorem State.Legal.me (h : s.Legal) : s.me.legal s.params = true := h.engines s.cur

/-! ### Engines -/

theorem Engine.legal_iff {p : Params} {g : Engine} : g.legal p = true ↔ g.queue.length ≤ p.queueDepth ∧
    tableWf 0#16 g.coef = true ∧ g.errCode ∈ errCodes ∧ (g.faulted = true → g.errCode ≠ 0 ∧ g.errCmd = g.cmdCount) ∧
    (g.faulted = false → g.errCode = 0 ∧ g.errCmd = 0) := by
  unfold Engine.legal
  cases g.faulted <;> simp [and_assoc]

/-- The first part of a legal engine: only the coefficients change. -/
theorem Engine.legal_withCoef {p : Params} {g : Engine} (h : g.legal p = true) {f : Sparse (BitVec 16)}
    (hf : tableWf 0#16 f = true) : { g with coef := f }.legal p = true := by
  obtain ⟨queue, -, rest⟩ := Engine.legal_iff.mp h
  exact Engine.legal_iff.mpr ⟨queue, hf, rest⟩

theorem State.Legal.complete (h : s.Legal) (running : s.me.faulted = false) (len : Nat) : (complete len s).Legal := by
  obtain ⟨queue, coef, code, -, clear⟩ := Engine.legal_iff.mp h.me
  refine h.setEngine (Engine.legal_iff.mpr ⟨?_, coef, code, fun hf => ?_, clear⟩)
  · rw [List.length_drop]
    omega
  · rw [running] at hf
    cases hf

theorem faultCode_mem (code : FaultCode) : code.code ∈ errCodes ∧ code.code ≠ 0 := by cases code <;> decide

theorem State.Legal.raise (h : s.Legal) (code : FaultCode) : (raise code s).Legal := by
  obtain ⟨queue, coef, -⟩ := Engine.legal_iff.mp h.me
  obtain ⟨listed, nonzero⟩ := faultCode_mem code
  exact h.setEngine (Engine.legal_iff.mpr ⟨queue, coef, listed, fun _ => ⟨nonzero, rfl⟩, fun hf => by cases hf⟩)

theorem State.Legal.clearCoef (h : s.Legal) : s.clearCoef.Legal := h.setEngine (Engine.legal_withCoef h.me rfl)

/-! ### Commands -/

theorem Effect.coefWf (effect : Effect s i u) (h : tableWf 0#16 s.me.coef = true) : tableWf 0#16 u.me.coef = true := by
  cases effect with
  | coefWrite =>
    rw [me_setEngine]
    exact tableWf_set h _ _
  | coefClear =>
    rw [me_clearCoef]
    rfl
  | residual =>
    rw [me_clearCoef]
    rfl
  | _ => exact h

theorem Effect.warn_cases (effect : Effect s i u) : u.warn = s.warn ∨ ∃ code n,
    (code = .bothPredflagsZero ∨ code = .nonexistingReferencePictureAccessed) ∧ u.warn = (warning code n s).warn := by
  cases effect with
  | warned n _ _ _ _ _ _ _ _ _ _ _ code _ named => exact .inr ⟨code, n, named, rfl⟩
  | _ => exact .inl rfl

/-- A queued warning has code 1011 or 1012 (R234). -/
theorem warning_codes {code : WarningCode} (n : BitVec 5)
    (named : code = .bothPredflagsZero ∨ code = .nonexistingReferencePictureAccessed)
    (h : ∀ w ∈ s.warn, w = 1011 ∨ w = 1012) : ∀ w ∈ (warning code n s).warn, w = 1011 ∨ w = 1012 := by
  intro w hw
  rw [warning_warn] at hw
  rcases List.mem_append.mp hw with hw | hw
  · split_ifs at hw
    · exact h w (List.mem_of_mem_tail hw)
    · exact h w hw
  · rw [List.mem_singleton] at hw
    subst hw
    exact warningCode_eq named

theorem Effect.legal (effect : Effect s i u) (h : s.Legal) : u.Legal := by
  have warnDepth : 1 ≤ s.params.warnDepth := by
    have := h.params
    simp only [Params.legal, decide_eq_true_eq] at this
    omega
  refine .of_parts ?params ?memory ?samples (fun n => ?slots) (fun e => ?engines) ?warnings ?codes
  case params =>
    rw [effect.params_eq]
    exact h.params
  case memory =>
    rcases effect.mem_cases with e | ⟨n, -, e⟩ | ⟨n, ws, -, e⟩ <;> rw [e]
    · exact h.memory
    · exact memWf_forget h.memory n
    · exact memWf_setSamples h.memory ws
  case samples =>
    rcases effect.mem_cases with e | ⟨n, -, e⟩ | ⟨n, ws, hw, e⟩ <;> rw [e]
    · exact h.samples
    · exact memPaired_forget h.samples n
    · exact memPaired_setSamples h.samples fun w hm => (hw.isSampleWrite w hm).even
  case slots =>
    rw [effect.params_eq]
    rcases effect.slot_cases n with e | edit | graded
    · rw [e]
      exact h.slot n
    · exact edit.legal h.params (h.slot n)
    · exact graded.legal (h.slot n)
  case engines =>
    rw [effect.params_eq]
    by_cases he : e = s.cur
    · have me : u.engine e = { s.me with coef := u.me.coef } := by
        rw [he, ← effect.cur_eq]
        exact effect.me_eq
      rw [me]
      exact Engine.legal_withCoef h.me (effect.coefWf (Engine.legal_iff.mp h.me).2.1)
    · rw [effect.engine_other he]
      exact h.engines e
  case warnings =>
    rw [effect.params_eq]
    rcases effect.warn_cases with e | ⟨code, n, -, e⟩ <;> rw [e]
    · exact h.warnings
    · exact warning_length code n s warnDepth h.warnings
  case codes =>
    rcases effect.warn_cases with e | ⟨code, n, named, e⟩ <;> rw [e]
    · exact h.warningCodes
    · exact warning_codes n named h.warningCodes

/-- A command of an engine that is not FAULTED keeps a legal state legal. -/
theorem exec_legal (h : s.Legal) (running : s.me.faulted = false) (next : exec i s = .next t) : t.Legal := by
  cases exec_ending next with
  | completed effect =>
    exact (effect.legal h).complete (by rw [effect.me_eq]; exact running) _
  | faulted code => exact h.raise code
  | faultedCleared code _ => exact h.clearCoef.raise code
  | held _ => exact h

theorem illegal_legal (h : s.Legal) : (illegal s).Legal := by
  unfold illegal
  split
  · exact h.raise _
  · split_ifs
    · exact h.clearCoef.raise _
    · exact h.raise _

theorem engineStep_legal (h : s.Legal) (next : engineStep s = .next t) : t.Legal := by
  unfold engineStep at next
  split_ifs at next with hf
  · cases next
    exact h
  · split at next
    · exact exec_legal h (by simpa using hf) next
    · cases next
      exact h
    all_goals
      cases next
      exact illegal_legal h

/-! ### Host operations -/

theorem State.Legal.replied (h : s.Legal) (r : HostReply) : (s.replied r).Legal := h.congr rfl rfl rfl rfl rfl

theorem State.Legal.resetAll (h : s.Legal) : (resetAll s).Legal := by
  have slot (n : BitVec 5) : (Machine.resetAll s).slot n = Slot.reset := by simp [Machine.resetAll, State.slot]
  have engine (e : BitVec 5) : (Machine.resetAll s).engine e = Engine.reset := by simp [Machine.resetAll, State.engine]
  refine .of_parts h.params rfl rfl (fun n => ?_) (fun e => ?_) (Nat.zero_le _) (fun w hw => by cases hw)
  · rw [slot]
    exact Slot.legal_reset _
  · rw [engine]
    exact Engine.legal_iff.mpr ⟨Nat.zero_le _, rfl, by decide, (fun hf => by cases hf), fun _ => ⟨rfl, rfl⟩⟩

theorem hostPush_legal (h : s.Legal) (e : BitVec 5) (w : Word) : (hostPush e w s).Legal := by
  by_cases room : s.params.queueDepth ≤ (s.engine e).queue.length
  · rw [hostPush_full room]
    exact h.replied _
  · rw [hostPush_room (Nat.not_le.mp room)]
    obtain ⟨-, rest⟩ := Engine.legal_iff.mp (h.engines e)
    refine State.Legal.replied (h.setEngine ?_) _
    refine Engine.legal_iff.mpr ⟨?_, rest⟩
    rw [List.length_append, List.length_singleton]
    omega

theorem hostWriteCtrl_legal (h : s.Legal) (e : BitVec 5) (v : Word) : (hostWriteCtrl e v s).Legal := by
  refine State.Legal.replied (h.setEngine ?_) _
  exact Engine.legal_iff.mpr (Engine.legal_iff.mp (h.engines e))

theorem hostMemRead_legal (h : s.Legal) (a : BitVec 40) (k : Nat) : (hostMemRead a k s).Legal := by
  unfold hostMemRead
  split_ifs
  · exact h.replied _
  · exact h.congr rfl rfl rfl rfl rfl

theorem hostMemWrite_legal (h : s.Legal) (a : BitVec 40) (k : Nat) (v : Word) : (hostMemWrite a k v s).Legal := by
  obtain ⟨wf, paired⟩ := hostMemWrite_mem h.memory h.samples a k v
  unfold hostMemWrite at wf paired ⊢
  split_ifs at wf paired ⊢
  · exact h.replied _
  · exact .of_parts h.params wf paired h.slot h.engines h.warnings h.warningCodes

theorem hostGetWarning_legal (h : s.Legal) : (hostGetWarning s).Legal := by
  unfold hostGetWarning
  split_ifs
  · exact h.congr rfl rfl rfl rfl rfl
  · split
    · exact h.replied _
    · next w rest hw =>
      have length := h.warnings
      have codes := h.warningCodes
      rw [hw] at length codes
      exact .of_parts h.params h.memory h.samples h.slot h.engines (Nat.le_of_succ_le length)
        fun v hv => codes v (List.mem_cons_of_mem _ hv)

theorem onEngine_legal {e : BitVec 5} {f : State → State} (hf : (f s).Legal) (next : onEngine s e f = .next t) :
    t.Legal := by
  unfold onEngine at next
  split_ifs at next
  cases next
  exact hf

theorem onSlot_legal {n : BitVec 5} {f : State → State} (hf : (f s).Legal) (next : onSlot s n f = .next t) :
    t.Legal := by
  unfold onSlot at next
  split_ifs at next
  cases next
  exact hf

theorem hostStep_legal {op : HostOp} (h : s.Legal) (next : hostStep op s = .next t) : t.Legal := by
  cases op with
  | push e w => exact onEngine_legal (hostPush_legal h e w) next
  | readStatus e => exact onEngine_legal (h.replied _) next
  | writeCtrl e v => exact onEngine_legal (hostWriteCtrl_legal h e v) next
  | readCfg n r => exact onSlot_legal (h.replied _) next
  | readSlot n => exact onSlot_legal (h.replied _) next
  | readProgress n rx ry => exact onSlot_legal (h.replied _) next
  | memRead a k => cases next; exact hostMemRead_legal h a k
  | memWrite a k v => cases next; exact hostMemWrite_legal h a k v
  | getWarning => cases next; exact hostGetWarning_legal h
  | reset => cases next; exact h.resetAll.replied _

/-! ### Moves -/

theorem State.Legal.advanceAgenda (h : s.Legal) : s.advanceAgenda.Legal := by
  unfold State.advanceAgenda
  split <;> exact h.congr rfl rfl rfl rfl rfl

theorem engineTurn_legal {e : BitVec 5} (h : s.Legal) (next : engineTurn e s = .next t) : t.Legal := by
  unfold engineTurn at next
  split_ifs at next
  have moved : State.Legal { s with cur := e } := h.congr rfl rfl rfl rfl rfl
  exact engineStep_legal moved next

theorem runEvent_legal {ev : Event} (h : s.Legal) (next : runEvent ev s = .next t) : t.Legal := by
  cases ev with
  | engine e => exact engineTurn_legal h next
  | host op => exact hostStep_legal h next

end

/-- Settles O16: the move is taken off the agenda, then an engine's turn or a host operation runs. -/
theorem stepKeepsLegal : Obligations.StepKeepsLegal :=
  fun _ _ legal next => runEvent_legal legal.advanceAgenda next

end Sys2Proof.Machine

namespace Sys2Proof.Machine

/-! ## The turn of an engine (R55, R228) -/

/-- The state in which the command of engine `e` runs: the move is off the agenda and `e` is the moving engine. -/
def State.turnOf (s : State) (e : BitVec 5) : State := { s.advanceAgenda with cur := e }

section
variable {s t : State} {e : BitVec 5}

@[simp] theorem advanceAgenda_params (s : State) : s.advanceAgenda.params = s.params := by
  unfold State.advanceAgenda
  split <;> rfl

@[simp] theorem advanceAgenda_engines (s : State) : s.advanceAgenda.engines = s.engines := by
  unfold State.advanceAgenda
  split <;> rfl

@[simp] theorem advanceAgenda_slots (s : State) : s.advanceAgenda.slots = s.slots := by
  unfold State.advanceAgenda
  split <;> rfl

@[simp] theorem turnOf_cur (s : State) (e : BitVec 5) : (s.turnOf e).cur = e := rfl

@[simp] theorem turnOf_params (s : State) (e : BitVec 5) : (s.turnOf e).params = s.params := advanceAgenda_params s

@[simp] theorem turnOf_slot (s : State) (e n : BitVec 5) : (s.turnOf e).slot n = s.slot n :=
  slot_eq_of_slots_eq (advanceAgenda_slots s) n

@[simp] theorem turnOf_me (s : State) (e : BitVec 5) : (s.turnOf e).me = s.engine e := by
  simp [State.me, State.turnOf, State.engine]

theorem step_engine (next : s.nextEvent = .engine e) :
    step s = if s.params.numEngines ≤ e.toNat then .fault (.noSuchEngine e) else engineStep (s.turnOf e) := by
  rw [step, next, ← advanceAgenda_params s]
  rfl

/-- A turn that answers a next state is that of an engine that exists (log 10). -/
theorem engine_exists_of_step (next : s.nextEvent = .engine e) (h : step s = .next t) :
    e.toNat < s.params.numEngines := by
  rw [step_engine next] at h
  split_ifs at h with absent
  exact Nat.not_le.mp absent

theorem engineStep_decoded {i : Instr} (running : s.me.faulted = false) (decoded : decode s.me.queue = .ok i) :
    engineStep s = exec i s := by
  simp [engineStep, running, decoded]

theorem step_runs {i : Instr} (next : s.nextEvent = .engine e) (present : e.toNat < s.params.numEngines)
    (running : (s.engine e).faulted = false) (decoded : decode (s.engine e).queue = .ok i) :
    step s = exec i (s.turnOf e) := by
  rw [step_engine next, if_neg (Nat.not_le.mpr present)]
  exact engineStep_decoded (by rwa [turnOf_me]) (by rwa [turnOf_me])

end

/-- Settles O1: the turn of an engine that exists and runs is `engineStep` of the state with the move taken. -/
theorem stepRunsCommand : Obligations.StepRunsCommand :=
  fun _ _ _ next present running decoded => step_runs next present running decoded

/-! ## A wait whose condition is true completes (R57, R237) -/

/-- Engine `e` is not FAULTED and has at its head a `WAIT_PROGRESS` whose checks pass and whose condition is true. -/
def ReachedAtHead (s : State) (e n : BitVec 5) (v : BitVec 3) (rx ry : BitVec 16) : Prop :=
  (s.engine e).faulted = false ∧ decode (s.engine e).queue = .ok (.waitProgress n v rx ry) ∧
    waitReached n v rx ry s = .ok true

section
variable {s t : State} {e n : BitVec 5} {v : BitVec 3} {rx ry : BitVec 16}

/-- A wait reads the parameters and the slot it names, nothing else. -/
theorem waitReached_congr (params : t.params = s.params) (slot : t.slot n = s.slot n) :
    waitReached n v rx ry t = waitReached n v rx ry s := by
  simp only [waitReached, params, slot]

theorem exec_waitProgress_reached (h : waitReached n v rx ry s = .ok true) :
    exec (.waitProgress n v rx ry) s = .next (complete 2 s) := by
  simp [exec, execWaitProgress, h]

theorem ReachedAtHead.not_waits (h : ReachedAtHead s e n v rx ry) : ¬ WaitsAtHead s e := by
  obtain ⟨-, decoded, reached⟩ := h
  rintro ⟨n', v', rx', ry', decoded', below⟩
  rw [decoded] at decoded'
  cases decoded'
  rw [waitReached_false_iff.mpr below] at reached
  cases reached

theorem ReachedAtHead.running (h : ReachedAtHead s e n v rx ry) : s.engineState e = .running :=
  engineState_running_iff.mpr ⟨h.1, holdsCommand_of_decode h.2.1, h.not_waits⟩

/-- The engine's turn completes the wait: one more command is counted. -/
theorem ReachedAtHead.completes (h : ReachedAtHead s e n v rx ry) (turn : s.nextEvent = .engine e)
    (next : step s = .next t) : (t.engine e).cmdCount = (s.engine e).cmdCount + 1 := by
  obtain ⟨running, decoded, reached⟩ := h
  have moved : waitReached n v rx ry (s.turnOf e) = .ok true := by
    rwa [waitReached_congr (turnOf_params s e) (turnOf_slot s e n)]
  have completed : t = complete 2 (s.turnOf e) := by
    rw [step_runs turn (engine_exists_of_step turn next) running decoded, exec_waitProgress_reached moved] at next
    cases next
    rfl
  calc (t.engine e).cmdCount
      = (complete 2 (s.turnOf e)).me.cmdCount := by rw [completed]; rfl
    _ = (s.engine e).cmdCount + 1 := by rw [me_complete, turnOf_me]

/-- In a weakly fair run an engine that is RUNNING for as long as it gets no turn gets one; `j` is the first. -/
theorem WeaklyFair.first_turn {run : Nat → State} (fair : WeaklyFair run) {k : Nat}
    (running : ∀ j, k ≤ j → (∀ m, k ≤ m → m < j → (run m).nextEvent ≠ .engine e) →
      (run j).engineState e = .running) :
    ∃ j, k ≤ j ∧ (run j).nextEvent = .engine e ∧ ∀ m, k ≤ m → m < j → (run m).nextEvent ≠ .engine e := by
  have turn : ∃ j, k ≤ j ∧ (run j).nextEvent = .engine e := by
    by_contra noTurn
    have never (m : Nat) (hm : k ≤ m) : (run m).nextEvent ≠ .engine e := fun h => noTurn ⟨m, hm, h⟩
    exact noTurn (fair e k fun j hj => running j hj fun m hm _ => never m hm)
  classical
  obtain ⟨hk, first⟩ := Nat.find_spec turn
  exact ⟨Nat.find turn, hk, first, fun m hm before h => Nat.find_min turn before ⟨hm, h⟩⟩

end

/-- Settles O60: until its first turn the engine is RUNNING, so fairness gives it one, and that turn completes the
wait. -/
theorem heldEventually : Obligations.HeldEventually := by
  intro run e k n v rx ry isRun fair _ ready
  obtain ⟨j, hj, turn, first⟩ := fair.first_turn fun j hj before => ReachedAtHead.running (ready j hj before)
  exact ⟨j, hj, turn, ReachedAtHead.completes (ready j hj first) turn (isRun j)⟩

end Sys2Proof.Machine

namespace Sys2Proof.Machine

/-! ## The queues (R58) -/

section
variable {s t u : State} {i : Instr}

/-- However a command ends, the other engines' queues are as they were. -/
theorem Ending.queue_other (h : Ending s i t) {e : BitVec 5} (he : e ≠ s.cur) :
    (t.engine e).queue = (s.engine e).queue := by
  cases h with
  | completed effect => rw [engine_complete_other _ _ (effect.cur_eq ▸ he), effect.engine_other he]
  | faulted code => rw [engine_raise_other s code he]
  | faultedCleared code => rw [engine_raise_other s.clearCoef code he, engine_clearCoef_other s he]
  | held => rfl

/-- However a command ends, its own queue is as it was less some words at its head. -/
theorem Ending.queue_me (h : Ending s i t) : ∃ k, t.me.queue = s.me.queue.drop k := by
  cases h with
  | completed effect => exact ⟨i.length, by rw [me_complete, effect.me_eq]⟩
  | faulted code => exact ⟨0, by simp⟩
  | faultedCleared code => exact ⟨0, by simp⟩
  | held => exact ⟨0, rfl⟩

end

theorem hostMemWrite_engines (a : BitVec 40) (n : Nat) (v : Word) (s : State) :
    (hostMemWrite a n v s).engines = s.engines := by
  unfold hostMemWrite
  split_ifs <;> rfl

/-- Settles O9, over the endings of a command. -/
theorem queuesNeverRewritten : Obligations.QueuesNeverRewritten := by
  refine ⟨fun i s t h => ⟨fun e he => (exec_ending h).queue_other he, (exec_ending h).queue_me⟩,
    fun a n v s t h e => ?_⟩
  cases h
  simp only [State.engine, hostMemWrite_engines]

end Sys2Proof.Machine

namespace Sys2Proof.Machine

/-! ## Accesses to the sample window (R47, R52, R60) -/

/-- Byte `j` of a window access at address `a`. -/
def State.accessByte (s : State) (a : BitVec 40) (j : Nat) : WindowByte :=
  s.windowByte (windowSlot a) (windowSet a) (windowPlane a) (windowOffset a + j)

/-- The memory after the first `n` bytes of `v` are written at window address `a`. -/
def State.memAfterWrite (s : State) (a : BitVec 40) (v : Word) : Nat → List Host.Cell
  | 0 => s.mem
  | n + 1 => s.hostSetByte (s.memAfterWrite a v n) (a.toNat + n) (s.accessByte a n) (v.extractLsb' (8 * n) 8)

section
variable {s t : State} {a : BitVec 40} {n j : Nat} {v : Word}

theorem windowBytes_eq_map (s : State) (a : BitVec 40) (n : Nat) :
    s.windowBytes a n = (List.range n).map (s.accessByte a) := rfl

theorem mem_windowBytes {b : WindowByte} : b ∈ s.windowBytes a n ↔ ∃ j < n, s.accessByte a j = b := by
  simp [windowBytes_eq_map]

theorem zipIdx_windowBytes (s : State) (a : BitVec 40) (n : Nat) :
    (s.windowBytes a n).zipIdx = (List.range n).map fun j => (s.accessByte a j, j) := by
  apply List.ext_getElem <;> simp [windowBytes_eq_map]

theorem windowOffset_eq (a : BitVec 40) : windowOffset a = a.toNat % 2 ^ 32 := by
  simp [windowOffset]

theorem windowRefuses_iff : s.windowRefuses a n = true ↔
    (n ≠ 1 ∧ n ≠ 2 ∧ n ≠ 4) ∨ windowOffset a % n ≠ 0 ∨ ∃ j < n, s.accessByte a j = .outside := by
  simp only [State.windowRefuses, Bool.or_eq_true, decide_eq_true_eq, or_assoc, mem_windowBytes]

theorem hostMemRead_refused (h : s.windowRefuses a n = true) : hostMemRead a n s = s.replied (.error 8) :=
  if_pos h

theorem hostMemWrite_refused (h : s.windowRefuses a n = true) : hostMemWrite a n v s = s.replied (.error 8) :=
  if_pos h

theorem foldl_hostSetByte (s : State) (a : BitVec 40) (v : Word) (n : Nat) :
    (s.windowBytes a n).zipIdx.foldl
      (fun m b => s.hostSetByte m (a.toNat + b.2) b.1 (v.extractLsb' (8 * b.2) 8)) s.mem = s.memAfterWrite a v n := by
  rw [zipIdx_windowBytes, List.foldl_map]
  induction n with
  | zero => rfl
  | succ n ih => rw [List.range_succ, List.foldl_append, ih]; rfl

theorem hostMemWrite_accepted (h : s.windowRefuses a n = false) (v : Word) : hostMemWrite a n v s =
    { s with mem := s.memAfterWrite a v n, draws := s.draws + 1, reply := .done } := by
  rw [hostMemWrite, if_neg (by simp [h]), foldl_hostSetByte]
  rfl

theorem hostMemRead_accepted (h : s.windowRefuses a n = false) : hostMemRead a n s =
    { s with draws := s.draws + 1, reply := .value (BitVec.ofNat 32 (assembleBytes
      ((List.range n).map fun j => s.hostByte (a.toNat + j) (s.accessByte a j)))) } := by
  rw [hostMemRead, if_neg (by simp [h]), zipIdx_windowBytes, List.map_map]
  rfl

/-- The layout of the window follows the parameters and the configurations, not the samples. -/
theorem accessByte_congr (params : t.params = s.params) (slots : t.slots = s.slots) :
    t.accessByte a j = s.accessByte a j := by
  simp only [State.accessByte, State.windowByte, params, slot_eq_of_slots_eq slots]

theorem windowRefuses_congr (params : t.params = s.params) (slots : t.slots = s.slots) :
    t.windowRefuses a n = s.windowRefuses a n := by
  have bytes : t.windowBytes a n = s.windowBytes a n := List.map_congr_left fun _ _ => accessByte_congr params slots
  simp only [State.windowRefuses, bytes]

end

/-- Settles O59: the three conditions are those under which the window refuses. -/
theorem windowRefusal : Obligations.WindowRefusal := by
  intro s a n v h
  rw [← windowOffset_eq] at h
  have refused : s.windowRefuses a n = true := windowRefuses_iff.mpr h
  exact ⟨congrArg _ (hostMemRead_refused refused), congrArg _ (hostMemWrite_refused refused)⟩

/-! ## What the bytes of an access are -/

section
variable {s : State} {a : BitVec 40} {v : Word} {j k n : Nat} {m m' : BitVec 5} {set set' : PlaneSet}
  {c c' x x' y y' i i' : Nat}

theorem bps_cases (g : CfgRegs) (c : Nat) : g.bps c = 1 ∨ g.bps c = 2 := by
  unfold CfgRegs.bps
  split_ifs
  · exact .inl rfl
  · exact .inr rfl

/-- The place of a sample byte in its plane (R47): its coordinates lie in the plane, and give back its offset. -/
theorem windowByte_sample {c₀ off : Nat} {m₀ : BitVec 5} {set₀ : PlaneSet}
    (h : s.windowByte m₀ set₀ c₀ off = .sample m set c x y i) :
    (m = m₀ ∧ set = set₀ ∧ c = c₀) ∧ c < 3 ∧ x < 65536 ∧ y < 65536 ∧ i < (s.slot m).cfg.bps c ∧
      off = y * (s.slot m).cfg.stride c + (x * (s.slot m).cfg.bps c + i) := by
  unfold State.windowByte at h
  dsimp only at h
  split_ifs at h with outside inside
  cases h
  simp only [not_or, Bool.not_eq_false] at outside
  have bps_pos : 0 < (s.slot m).cfg.bps c := by rcases bps_cases (s.slot m).cfg c with h | h <;> omega
  refine ⟨⟨rfl, rfl, rfl⟩, planeExists_lt outside.2.1, inside.2.trans (planeW_lt _ _), inside.1.trans (planeH_lt _ _),
    Nat.mod_lt _ bps_pos, ?_⟩
  rw [Nat.div_add_mod', Nat.div_add_mod']

/-- Two bytes of an access that are one byte of one sample are the same byte of the access. -/
theorem accessByte_inj (hj : s.accessByte a j = .sample m set c x y i)
    (hk : s.accessByte a k = .sample m' set' c' x' y' i')
    (same : sampleAddr m set c x y + i = sampleAddr m' set' c' x' y' + i') : j = k := by
  obtain ⟨⟨rfl, rfl, rfl⟩, hc, hx, hy, hi, offj⟩ := windowByte_sample hj
  obtain ⟨⟨rfl, rfl, rfl⟩, -, hx', hy', hi', offk⟩ := windowByte_sample hk
  have byte : i = i' ∧ sampleAddr (windowSlot a) (windowSet a) (windowPlane a) x y =
      sampleAddr (windowSlot a) (windowSet a) (windowPlane a) x' y' := by
    have even := sampleAddr_even (windowSlot a) (windowSet a) (windowPlane a) x y
    have even' := sampleAddr_even (windowSlot a) (windowSet a) (windowPlane a) x' y'
    rcases bps_cases (s.slot (windowSlot a)).cfg (windowPlane a) with h | h <;> omega
  obtain ⟨rfl, addr⟩ := byte
  obtain ⟨-, -, -, rfl, rfl⟩ := sampleAddr_inj (by omega) (by omega) hx hx' hy hy' addr
  omega

/-- The only byte of a one-byte sample is its low byte. -/
theorem accessByte_low (hj : s.accessByte a j = .sample m set c x y i) (one : (s.slot m).cfg.bps c = 1) : i = 0 := by
  obtain ⟨-, -, -, -, hi, -⟩ := windowByte_sample hj
  omega

/-! ## What a window write does to the memory -/

theorem memByte_hostSetByte_same (s : State) (mem : List Host.Cell) (phys : Nat) (w : Byte)
    (low : (s.slot m).cfg.bps c = 1 → i = 0) :
    memByte? (s.hostSetByte mem phys (.sample m set c x y i) w) (sampleAddr m set c x y + i) = some w := by
  simp only [State.hostSetByte]
  split
  · next one =>
    obtain rfl := low one
    rw [memSetSample, memByte_setByte_other _ _ (by omega), Nat.add_zero, memByte_setByte_same]
    congr 1
    rw [BitVec.zeroExtend, BitVec.extractLsb'_setWidth_of_le (by decide), BitVec.extractLsb'_eq_self]
  · exact memByte_setByte_same _ _ _

/-- A window write leaves every byte of memory alone but those of the samples it addresses: the bytes it addresses, the
second byte of a one-byte sample, and the other byte of a sample that was unwritten (R53). -/
theorem memByte_memAfterWrite_other {p : Nat}
    (h : ¬ ∃ m set c x y i, .sample m set c x y i ∈ s.windowBytes a n ∧ (p = sampleAddr m set c x y + i ∨
      (p = sampleAddr m set c x y + (1 - i) ∧ ((s.slot m).cfg.bps c = 1 ∨ memByte? s.mem p = none)))) :
    memByte? (s.memAfterWrite a v n) p = memByte? s.mem p := by
  induction n with
  | zero => rfl
  | succ n ih =>
    have before : memByte? (s.memAfterWrite a v n) p = memByte? s.mem p := by
      refine ih fun ⟨m, set, c, x, y, i, hb, hp⟩ => h ⟨m, set, c, x, y, i, ?_, hp⟩
      obtain ⟨j, hj, e⟩ := mem_windowBytes.mp hb
      exact mem_windowBytes.mpr ⟨j, Nat.lt_succ_of_lt hj, e⟩
    rw [State.memAfterWrite, memByte_hostSetByte_other, before]
    · exact fun m set c x y i e one => accessByte_low e one
    · rintro ⟨m, set, c, x, y, i, e, hp⟩
      rw [before] at hp
      exact h ⟨m, set, c, x, y, i, mem_windowBytes.mpr ⟨n, Nat.lt_succ_self n, e⟩, hp⟩

/-- Each byte written stands in memory after the access: a later byte of it is another one, and the other byte of its
sample is written over only where nothing was. -/
theorem memByte_memAfterWrite_same (hj : j < n) (hb : s.accessByte a j = .sample m set c x y i) :
    memByte? (s.memAfterWrite a v n) (sampleAddr m set c x y + i) = some (v.extractLsb' (8 * j) 8) := by
  induction n with
  | zero => cases hj
  | succ n ih =>
    rw [State.memAfterWrite]
    by_cases last : j = n
    · subst last
      rw [hb]
      exact memByte_hostSetByte_same s _ _ _ fun one => accessByte_low hb one
    · have stored := ih (by omega)
      rw [memByte_hostSetByte_other, stored]
      · exact fun m set c x y i e one => accessByte_low e one
      · rintro ⟨m', set', c', x', y', i', e, same | ⟨other, one | unwritten⟩⟩
        · exact last (accessByte_inj hb e same)
        · obtain rfl := accessByte_low e one
          obtain ⟨⟨rfl, -, rfl⟩, -⟩ := windowByte_sample e
          obtain ⟨⟨rfl, -, rfl⟩, -⟩ := windowByte_sample hb
          obtain rfl := accessByte_low hb one
          have even := sampleAddr_even (windowSlot a) set (windowPlane a) x y
          have even' := sampleAddr_even (windowSlot a) set' (windowPlane a) x' y'
          omega
        · rw [stored] at unwritten
          cases unwritten

end

/-! ## Little-endian assembly (R50) -/

theorem assembleBytes_append (l : List Byte) (b : Byte) :
    assembleBytes (l ++ [b]) = assembleBytes l + 2 ^ (8 * l.length) * b.toNat := by
  induction l with
  | nil => simp [assembleBytes]
  | cons w l ih =>
    simp only [List.cons_append, assembleBytes, ih, List.length_cons, Nat.mul_succ, pow_add]
    ring

/-- The bytes of a word, the lowest first, assemble to its low bits. -/
theorem assembleBytes_extract (v : Word) (n : Nat) :
    assembleBytes ((List.range n).map fun j => v.extractLsb' (8 * j) 8) = v.toNat % 2 ^ (8 * n) := by
  induction n with
  | zero => simp [assembleBytes, Nat.mod_one]
  | succ n ih =>
    rw [List.range_succ, List.map_append, List.map_singleton, assembleBytes_append, ih, List.length_map,
      List.length_range, BitVec.extractLsb'_toNat, Nat.shiftRight_eq_div_pow, Nat.mul_succ, pow_add, Nat.mod_mul]

/-! ## The host reads back what it wrote -/

/-- A byte of an accepted access that is not padding is a byte of a sample. -/
theorem accessByte_isSample {s : State} {a : BitVec 40} {n j : Nat} (accepted : s.windowRefuses a n = false)
    (hj : j < n) (padding : s.accessByte a j ≠ .padding) : ∃ m set c x y i, s.accessByte a j = .sample m set c x y i := by
  cases h : s.accessByte a j with
  | sample m set c x y i => exact ⟨m, set, c, x, y, i, rfl⟩
  | padding => exact absurd h padding
  | outside =>
    have refused : s.windowRefuses a n = true := windowRefuses_iff.mpr (.inr (.inr ⟨j, hj, h⟩))
    rw [accepted] at refused
    cases refused

theorem hostByte_of_stored {s : State} {phys : Nat} {m : BitVec 5} {set : PlaneSet} {c x y i : Nat} {w : Byte}
    (h : memByte? s.mem (sampleAddr m set c x y + i) = some w) : s.hostByte phys (.sample m set c x y i) = w := by
  simp only [State.hostByte, h]

/-- Settles O58: the frame over the bytes of the access, and the readback byte by byte. -/
theorem memWriteRead : Obligations.MemWriteRead := by
  intro s a n v accepted
  have write := hostMemWrite_accepted accepted v
  refine ⟨hostMemWrite a n v s, rfl, by rw [write], fun p hp => ?_, fun noPadding => ?_⟩
  · rw [write]
    exact memByte_memAfterWrite_other hp
  · rw [write]
    generalize ht : ({ s with mem := s.memAfterWrite a v n, draws := s.draws + 1, reply := .done } : State) = t
    have params : t.params = s.params := by rw [← ht]
    have slots : t.slots = s.slots := by rw [← ht]
    have mem : t.mem = s.memAfterWrite a v n := by rw [← ht]
    have read := hostMemRead_accepted ((windowRefuses_congr params slots).trans accepted)
    have bytes : (List.range n).map (fun j => t.hostByte (a.toNat + j) (t.accessByte a j)) =
        (List.range n).map fun j => v.extractLsb' (8 * j) 8 := by
      refine List.map_congr_left fun j hj => ?_
      have hj : j < n := List.mem_range.mp hj
      obtain ⟨m, set, c, x, y, i, hb⟩ :=
        accessByte_isSample accepted hj (noPadding _ (mem_windowBytes.mpr ⟨j, hj, rfl⟩))
      rw [accessByte_congr params slots, hb]
      exact hostByte_of_stored (by rw [mem]; exact memByte_memAfterWrite_same hj hb)
    rw [bytes, assembleBytes_extract] at read
    exact ⟨hostMemRead a n t, rfl, by rw [read], by rw [read]⟩

end Sys2Proof.Machine

namespace Sys2Proof

/-! ## The decoder and the encoder are inverse (R62 to R67)

A list of words decodes to a command exactly where it begins with the encoding of the command. Every word of an
encoding is read back by an equivalence: the word is the encoder's if and only if each of its fields has the encoder's
value and each of its reserved bits is 0. -/

/-! ### Words and their fields -/

theorem bits_eq_iff {w : Word} {lo len : Nat} {v : BitVec len} :
    bits w lo len = v ↔ w.toNat / 2 ^ lo % 2 ^ len = v.toNat := by
  rw [← bits_toNat, BitVec.toNat_inj]

/-- A one-bit field is a field of one bit. -/
theorem flag_eq_iff {w : Word} {lo : Nat} {b : Bool} : flag w lo = b ↔ bits w lo 1 = BitVec.ofBool b := by
  rw [flag_eq_bits]
  cases b with
  | true => simp
  | false => rcases BitVec.eq_zero_or_eq_one (bits w lo 1) with h | h <;> simp [h]

/-- A word is a header where its four fields and bit 15 are those of the header. -/
theorem eq_header_iff {w : Word} {op a : Nat} {s : BitVec 5} {c : BitVec 2} (ho : op < 256) :
    w = header op s c a ↔ opField w = BitVec.ofNat 8 op ∧ slotField w = s ∧ cidxField w = c ∧ bits w 15 1 = 0#1 ∧
      w.toNat / 2 ^ 16 = a % 2 ^ 16 := by
  simp only [opField, slotField, cidxField, bits_toNat, ← BitVec.toNat_inj, header, BitVec.toNat_ofNat]
  omega

/-- `cidxField_header` for command-specific bits of any width: what is too wide is lost above bit 31. -/
theorem cidxField_header_eq {op a : Nat} (s : BitVec 5) (c : BitVec 2) (ho : op < 256) :
    cidxField (header op s c a) = c := by
  obtain ⟨-, -, hc, -⟩ := (eq_header_iff ho).mp rfl
  exact hc

theorem eq_pairWord_iff {w : Word} {lo hi : BitVec 16} :
    w = pairWord lo hi ↔ bits w 0 16 = lo ∧ bits w 16 16 = hi := by
  simp only [pairWord, bits_toNat, ← BitVec.toNat_inj, BitVec.toNat_ofNat]
  omega

/-! ### The fields and the reserved bits of each format fill the word (R65)

The left side is the encoder's sum of fields, the right side what the decoder reads: each field, and the reserved bits
above them. -/

section
variable {w : Word}

theorem header_empty_iff : bits w 15 1 = 0#1 ∧ w.toNat < 2 ^ 16 ↔ bits w 15 17 = 0#17 := by
  simp only [bits_eq_iff, BitVec.toNat_ofNat]
  omega

theorem byteWord_iff {v : BitVec 8} : w = v.setWidth 32 ↔ bits w 0 8 = v ∧ bits w 8 24 = 0#24 := by
  simp only [← BitVec.toNat_inj, bits_toNat, BitVec.toNat_ofNat, BitVec.toNat_setWidth]
  omega

theorem halfWord_iff {v : BitVec 16} : w = v.setWidth 32 ↔ bits w 0 16 = v ∧ bits w 16 16 = 0#16 := by
  simp only [← BitVec.toNat_inj, bits_toNat, BitVec.toNat_ofNat, BitVec.toNat_setWidth]
  omega

theorem regWrite_fields_iff {reg : BitVec 8} :
    w.toNat / 2 ^ 16 = reg.toNat ↔ bits w 16 8 = reg ∧ bits w 24 8 = 0#8 := by
  simp only [bits_eq_iff, BitVec.toNat_ofNat]
  omega

theorem setSlice_fields_iff {idx : BitVec 16} : w.toNat / 2 ^ 16 = idx.toNat ↔ bits w 16 16 = idx := by
  simp only [bits_eq_iff]
  omega

theorem setSlice_flags_iff {dbkDis lfAcross saoL saoC : Bool} {beta tc : BitVec 4} :
    w = BitVec.ofNat 32 (dbkDis.toNat + lfAcross.toNat * 2 + saoL.toNat * 2 ^ 2 + saoC.toNat * 2 ^ 3 +
        beta.toNat * 2 ^ 4 + tc.toNat * 2 ^ 8) ↔
      flag w 0 = dbkDis ∧ flag w 1 = lfAcross ∧ flag w 2 = saoL ∧ flag w 3 = saoC ∧ bits w 4 4 = beta ∧
        bits w 8 4 = tc ∧ bits w 12 20 = 0#20 := by
  simp only [flag_eq_iff, ← BitVec.toNat_inj, bits_toNat, ← BitVec.toNat_ofBool, BitVec.toNat_ofNat]
  omega

theorem setCu_fields_iff {k : BitVec 3} {intra pcm bypass : Bool} {qp : BitVec 7} :
    w.toNat / 2 ^ 16 = (k.toNat + intra.toNat * 2 ^ 3 + pcm.toNat * 2 ^ 4 + bypass.toNat * 2 ^ 5 + qp.toNat * 2 ^ 6) %
        2 ^ 16 ↔
      bits w 16 3 = k ∧ flag w 19 = intra ∧ flag w 20 = pcm ∧ flag w 21 = bypass ∧ bits w 22 7 = qp ∧
        bits w 29 3 = 0#3 := by
  simp only [flag_eq_iff, bits_eq_iff, ← BitVec.toNat_ofBool, BitVec.toNat_ofNat]
  omega

theorem markTb_fields_iff {k : BitVec 3} {nz : Bool} :
    w.toNat / 2 ^ 16 = (k.toNat + nz.toNat * 2 ^ 3) % 2 ^ 16 ↔
      bits w 16 3 = k ∧ flag w 19 = nz ∧ bits w 20 12 = 0#12 := by
  simp only [flag_eq_iff, bits_eq_iff, ← BitVec.toNat_ofBool, BitVec.toNat_ofNat]
  omega

theorem markPb_fields_iff {pf0 pf1 : Bool} {ref0 ref1 : BitVec 5} :
    w.toNat / 2 ^ 16 = (pf0.toNat + pf1.toNat * 2 + ref0.toNat * 2 ^ 2 + ref1.toNat * 2 ^ 7) % 2 ^ 16 ↔
      flag w 16 = pf0 ∧ flag w 17 = pf1 ∧ bits w 18 5 = ref0 ∧ bits w 23 5 = ref1 ∧ bits w 28 4 = 0#4 := by
  simp only [flag_eq_iff, bits_eq_iff, ← BitVec.toNat_ofBool, BitVec.toNat_ofNat]
  omega

theorem setSao_fields_iff {ty : BitVec 2} {pos : BitVec 5} :
    w.toNat / 2 ^ 16 = (ty.toNat + pos.toNat * 2 ^ 2) % 2 ^ 16 ↔
      bits w 16 2 = ty ∧ bits w 18 5 = pos ∧ bits w 23 9 = 0#9 := by
  simp only [bits_eq_iff, BitVec.toNat_ofNat]
  omega

theorem setSao_offsets_iff {o1 o2 o3 o4 : BitVec 8} :
    w = BitVec.ofNat 32 (o1.toNat + o2.toNat * 2 ^ 8 + o3.toNat * 2 ^ 16 + o4.toNat * 2 ^ 24) ↔
      bits w 0 8 = o1 ∧ bits w 8 8 = o2 ∧ bits w 16 8 = o3 ∧ bits w 24 8 = o4 := by
  simp only [← BitVec.toNat_inj, bits_toNat, BitVec.toNat_ofNat]
  omega

theorem setScaling_fields_iff {sizeId : BitVec 2} {matrix : BitVec 3} {sx sy : BitVec 5} :
    w.toNat / 2 ^ 16 = (sizeId.toNat + matrix.toNat * 2 ^ 2 + sx.toNat * 2 ^ 5 + sy.toNat * 2 ^ 10) % 2 ^ 16 ↔
      bits w 16 2 = sizeId ∧ bits w 18 3 = matrix ∧ bits w 21 5 = sx ∧ bits w 26 5 = sy ∧ bits w 31 1 = 0#1 := by
  simp only [bits_eq_iff, BitVec.toNat_ofNat]
  omega

theorem coefWrite_fields_iff {cx cy : BitVec 5} :
    w.toNat / 2 ^ 16 = (cx.toNat + cy.toNat * 2 ^ 5) % 2 ^ 16 ↔
      bits w 16 5 = cx ∧ bits w 21 5 = cy ∧ bits w 26 6 = 0#6 := by
  simp only [bits_eq_iff, BitVec.toNat_ofNat]
  omega

theorem intraPred_fields_iff {k : BitVec 3} {mode : BitVec 6} :
    w.toNat / 2 ^ 16 = (k.toNat + mode.toNat * 2 ^ 3) % 2 ^ 16 ↔
      bits w 16 3 = k ∧ bits w 19 6 = mode ∧ bits w 25 7 = 0#7 := by
  simp only [bits_eq_iff, BitVec.toNat_ofNat]
  omega

theorem residual_fields_iff {k : BitVec 3} {tskip : Bool} {qp : BitVec 7} :
    w.toNat / 2 ^ 16 = (k.toNat + tskip.toNat * 2 ^ 3 + qp.toNat * 2 ^ 4) % 2 ^ 16 ↔
      bits w 16 3 = k ∧ flag w 19 = tskip ∧ bits w 20 7 = qp ∧ bits w 27 5 = 0#5 := by
  simp only [flag_eq_iff, bits_eq_iff, ← BitVec.toNat_ofBool, BitVec.toNat_ofNat]
  omega

theorem interPred_fields_iff {expl : Bool} {denom : BitVec 3} :
    w.toNat / 2 ^ 16 = (expl.toNat + denom.toNat * 2) % 2 ^ 16 ↔
      flag w 16 = expl ∧ bits w 17 3 = denom ∧ bits w 20 12 = 0#12 := by
  simp only [flag_eq_iff, bits_eq_iff, ← BitVec.toNat_ofBool, BitVec.toNat_ofNat]
  omega

theorem deblock_fields_iff {dir : Bool} :
    w.toNat / 2 ^ 16 = dir.toNat % 2 ^ 16 ↔ flag w 16 = dir ∧ bits w 17 15 = 0#15 := by
  simp only [flag_eq_iff, bits_eq_iff, ← BitVec.toNat_ofBool, BitVec.toNat_ofNat]
  omega

theorem progress_fields_iff {value : BitVec 3} :
    w.toNat / 2 ^ 16 = value.toNat ↔ bits w 16 3 = value ∧ bits w 19 13 = 0#13 := by
  simp only [bits_eq_iff, BitVec.toNat_ofNat]
  omega

end

/-! ### Opcodes -/

/-- OP of a command (R64). -/
def Instr.opcode : Instr → Nat
  | .nop => 0x00
  | .regWrite .. => 0x01
  | .picInit .. => 0x02
  | .picDone .. => 0x03
  | .picFree .. => 0x04
  | .setCtb .. => 0x05
  | .setSlice .. => 0x06
  | .setCu .. => 0x07
  | .markTb .. => 0x08
  | .markPb .. => 0x09
  | .setSao .. => 0x0A
  | .setScaling .. => 0x0B
  | .coefWrite .. => 0x10
  | .coefClear => 0x11
  | .putSample .. => 0x12
  | .intraPred .. => 0x20
  | .residual .. => 0x21
  | .interPred .. => 0x22
  | .deblock .. => 0x30
  | .sao .. => 0x31
  | .setProgress .. => 0x40
  | .waitProgress .. => 0x41

/-- The decoder assembles a command from its own opcode alone. -/
theorem opcode_of_assembleFields {op : BitVec 8} {w0 w1 w2 w3 w4 : Word} {i : Instr}
    (h : assembleFields op w0 w1 w2 w3 w4 = some i) : op = BitVec.ofNat 8 i.opcode := by
  apply BitVec.eq_of_toNat_eq
  unfold assembleFields at h
  split at h <;> cases h <;> assumption

theorem opcodeRow_opcode (i : Instr) : ∃ r, opcodeRow (BitVec.ofNat 8 i.opcode) = some r ∧ r.len = i.length := by
  cases i <;> exact ⟨_, rfl, rfl⟩

theorem encode_length (i : Instr) : (encode i).length = i.length := by cases i <;> rfl

/-! ### The words of a queue -/

/-- The word at a place of the queue, 0 past its end, as the decoder reads it. -/
def wordOf (q : List Word) (k : Nat) : Word := q.getD k 0#32

/-- Every bit of the words `w 0`, `w 1`, … that a command of the row does not use is 0 (R63 check (1), R67). -/
def UnusedClear (r : OpcodeRow) (w : Nat → Word) : Prop :=
  (∀ f ∈ r.reserved, bits (w f.1) f.2.1 f.2.2 = 0#f.2.2) ∧ (r.slotted = true ∨ slotField (w 0) = 0#5) ∧
    (r.component = true ∨ cidxField (w 0) = 0#2)

theorem reservedBitsClear_iff {r : OpcodeRow} {q : List Word} :
    reservedBitsClear r q = true ↔ ∀ f ∈ r.reserved, bits (wordOf q f.1) f.2.1 f.2.2 = 0#f.2.2 := by
  simp only [reservedBitsClear, List.all_eq_true, beq_iff_eq, wordOf]

theorem take_eq_iff {q l : List Word} {n : Nat} (hl : l.length = n) :
    q.take n = l ↔ n ≤ q.length ∧ (List.range n).map (wordOf q) = l := by
  have words (hn : n ≤ q.length) : (List.range n).map (wordOf q) = q.take n := by
    refine List.ext_getElem (by simp [hn]) fun k hk _ => ?_
    have inside : k < q.length := by simp at hk; omega
    simp [wordOf, inside]
  constructor
  · rintro rfl
    have hn : n ≤ q.length := by simpa using hl
    exact ⟨hn, words hn⟩
  · rintro ⟨hn, rfl⟩
    exact (words hn).symm

/-- What the decoder accepts, its checks and the operand assembly side by side. -/
theorem decode_eq_ok_iff {q : List Word} {i : Instr} : decode q = .ok i ↔
    ∃ r, opcodeRow (opField (wordOf q 0)) = some r ∧ r.len ≤ q.length ∧ UnusedClear r (wordOf q) ∧
      cidxField (wordOf q 0) ≠ 3#2 ∧ assembleFields (opField (wordOf q 0)) (wordOf q 0) (wordOf q 1) (wordOf q 2)
        (wordOf q 3) (wordOf q 4) = some i := by
  cases q with
  | nil =>
    constructor
    · intro h
      cases h
    · rintro ⟨r, hr, hl, -⟩
      cases hr
      cases hl
  | cons w0 rest =>
    constructor
    · intro h
      simp only [decode] at h
      split at h
      · cases h
      · next r hr =>
        split_ifs at h with hl hz hs hc
        split at h
        · cases h
        · next hi =>
          cases h
          have slot : r.slotted = true ∨ slotField w0 = 0#5 := by grind
          have component : r.component = true ∨ cidxField w0 = 0#2 := by grind
          have legal : cidxField w0 ≠ 3#2 := fun h => hc (.inl h)
          have clear := reservedBitsClear_iff.mp (Bool.not_eq_false _ ▸ hz)
          exact ⟨r, hr, Nat.not_lt.mp hl, ⟨clear, slot, component⟩, legal, hi⟩
    · rintro ⟨r, hr, hl, ⟨hz, slot, component⟩, legal, hi⟩
      exact decode_of_row hr hl (reservedBitsClear_iff.mpr hz) slot ⟨legal, component⟩ hi

/-! ### Each command -/

/-- The unused bits of a command's words are 0 and its operands are read from them, if and only if the words are its
encoding. On both sides `simp` reads the words field by field, the powers of two left as the encoder writes them; the
two sides are then the same facts about the words, in another order. -/
theorem fields_iff_encode (i : Instr) (w : Nat → Word) {r : OpcodeRow}
    (hr : opcodeRow (BitVec.ofNat 8 i.opcode) = some r) :
    opField (w 0) = BitVec.ofNat 8 i.opcode ∧ UnusedClear r w ∧
        assembleFields (BitVec.ofNat 8 i.opcode) (w 0) (w 1) (w 2) (w 3) (w 4) = some i ↔
      (List.range i.length).map w = encode i := by
  cases i <;> cases hr
  all_goals
    simp [UnusedClear, assembleFields, Instr.opcode, encode, Instr.length, List.range_succ, eq_header_iff,
      eq_pairWord_iff, -Nat.reducePow, -and_congr_right_iff, header_empty_iff, byteWord_iff,
      halfWord_iff, regWrite_fields_iff, setSlice_fields_iff, setSlice_flags_iff, setCu_fields_iff, markTb_fields_iff,
      markPb_fields_iff, setSao_fields_iff, setSao_offsets_iff, setScaling_fields_iff, coefWrite_fields_iff,
      intraPred_fields_iff, residual_fields_iff, interPred_fields_iff, deblock_fields_iff, progress_fields_iff]
    constructor
    · intro read
      simp [read]
    · intro words
      simp [words]

/-- A command is well formed if and only if the CIDX of its encoding is a component. -/
theorem wellFormed_iff_cidxField (i : Instr) : i.wellFormed = true ↔ cidxField (wordOf (encode i) 0) ≠ 3#2 := by
  cases i <;> simp [Instr.wellFormed, componentOk, wordOf, encode, cidxField_header_eq]

theorem wordOf_encode_zero {i : Instr} {w : Nat → Word} (words : (List.range i.length).map w = encode i) :
    wordOf (encode i) 0 = w 0 := by
  have pos : 0 < i.length := by cases i <;> exact Nat.succ_pos _
  simp [← words, wordOf, pos]

/-- A queue decodes to a command if and only if the command is well formed and the queue begins with its encoding. -/
theorem decode_eq_ok_iff_encode {q : List Word} {i : Instr} :
    decode q = .ok i ↔ i.wellFormed = true ∧ q.take i.length = encode i := by
  obtain ⟨r, hr, len⟩ := opcodeRow_opcode i
  have fields := fields_iff_encode i (wordOf q) hr
  rw [take_eq_iff (encode_length i), decode_eq_ok_iff, wellFormed_iff_cidxField]
  constructor
  · rintro ⟨r', row, complete, clear, legal, read⟩
    have op := opcode_of_assembleFields read
    rw [op] at row read
    obtain rfl : r' = r := Option.some.inj (row.symm.trans hr)
    have words := fields.mp ⟨op, clear, read⟩
    exact ⟨wordOf_encode_zero words ▸ legal, len ▸ complete, words⟩
  · rintro ⟨legal, complete, words⟩
    obtain ⟨op, clear, read⟩ := fields.mpr words
    exact ⟨r, op ▸ hr, len ▸ complete, clear, wordOf_encode_zero words ▸ legal, op ▸ read⟩

/-- Settles O4: the queue begins with the encoding. -/
theorem decodeEncode : Obligations.DecodeEncode := by
  intro i rest wf
  exact decode_eq_ok_iff_encode.mpr ⟨wf, by rw [← encode_length i, List.take_left]⟩

/-- Settles O5, the other direction of the same equivalence. -/
theorem encodeDecode : Obligations.EncodeDecode := fun _ _ => decode_eq_ok_iff_encode.mp

/-- Settles O3: each list of words is read by the decoder. -/
theorem decodeWords : Obligations.DecodeWords :=
  ⟨by decide, by decide, by decide, by decide, by decide, by decide⟩

end Sys2Proof

namespace Sys2Proof.Machine

/-! ## Turns and commands without an effect (R63, R229, R230) -/

theorem engineStep_faulted {s : State} (h : s.me.faulted = true) : engineStep s = .next s := by simp [engineStep, h]

theorem engineStep_incomplete {s : State} (hf : s.me.faulted = false) (hd : decode s.me.queue = .error .incomplete) :
    engineStep s = .next s := by simp [engineStep, hf, hd]

theorem engineStep_illegal {s : State} {d : DecodeError} (hf : s.me.faulted = false)
    (hd : decode s.me.queue = .error d) (h : d ≠ .incomplete) : engineStep s = .next (illegal s) := by
  cases d with
  | incomplete => exact absurd rfl h
  | unknownOpcode => simp [engineStep, hf, hd]
  | reservedBitSet => simp [engineStep, hf, hd]
  | slotNamed => simp [engineStep, hf, hd]
  | badComponent => simp [engineStep, hf, hd]

/-- The fault of a RESIDUAL is a fault like any other: the coefficient buffer is none of the registers it leaves. -/
theorem faulted_raise_clearCoef (code : FaultCode) (s : State) : Faulted code s (raise code s.clearCoef) :=
  have fault := faulted_raise code s.clearCoef
  { errCode := fault.errCode
    errCmd := by simp
    faulted := fault.faulted
    queue := by simp
    cmdCount := by simp
    irqEn := by simp
    others := fun e he => (fault.others e he).trans (engine_clearCoef_other s he)
    cur := rfl
    slots := fault.slots
    memory := fault.memory
    warnings := fault.warnings }

theorem illegal_residual {s : State} {w0 : Word} {rest : List Word} (hq : s.me.queue = w0 :: rest)
    (h : opField w0 = 0x21#8) : illegal s = raise .illegalCommand s.clearCoef := by simp [illegal, hq, h]

theorem illegal_other {s : State} {w0 : Word} {rest : List Word} (hq : s.me.queue = w0 :: rest)
    (h : opField w0 ≠ 0x21#8) : illegal s = raise .illegalCommand s := by simp [illegal, hq, h]

theorem faulted_illegal (s : State) : Faulted .illegalCommand s (illegal s) := by
  cases hq : s.me.queue with
  | nil => simpa [illegal, hq] using faulted_raise .illegalCommand s
  | cons w0 rest =>
    by_cases h : opField w0 = 0x21#8
    · rw [illegal_residual hq h]; exact faulted_raise_clearCoef _ s
    · rw [illegal_other hq h]; exact faulted_raise _ s

/-- Settles O2: each kind of turn by what `engineStep` does in it. -/
theorem turnWithoutCommand : Obligations.TurnWithoutCommand := by
  intro s e next present
  rw [step_engine next, if_neg (Nat.not_le.mpr present)]
  have me := turnOf_me s e
  refine ⟨fun hf => engineStep_faulted (me ▸ hf), fun hf hd => engineStep_incomplete (me ▸ hf) (me ▸ hd),
    fun d hf hd hne => ⟨illegal (s.turnOf e), engineStep_illegal (me ▸ hf) (me ▸ hd) hne, faulted_illegal _,
      fun w0 rest hq => ⟨fun h x y => ?_, fun h => ?_⟩⟩⟩
  · rw [illegal_residual (me ▸ hq) h, me_raise, me_clearCoef]
    rfl
  · rw [illegal_other (me ▸ hq) h, me_raise, me]

/-! ## A slot that does not exist (R63) -/

section
variable {s : State} {n : BitVec 5} {k : Slot → Except FaultCode State} (absent : s.params.numSlots ≤ n.toNat)
include absent

theorem withInFlight_absent : withInFlight s n k = .error .codedParameterOutOfRange := withSlot_absent absent

/-- CIDX 3 is refused before the slot is looked at, so the component has to be one. -/
theorem withPlane_absent {c : BitVec 2} (hc : componentOk c = true) :
    withPlane s n c k = .error .codedParameterOutOfRange := by
  simp [withPlane, hc, withInFlight_absent absent]

theorem waitReached_absent {value : BitVec 3} {rx ry : BitVec 16} :
    waitReached n value rx ry s = .error .codedParameterOutOfRange := if_pos absent

/-- A command that names an absent slot ends with code 8, RESIDUAL with its buffer cleared. -/
theorem exec_slot_absent {i : Instr} (wf : i.wellFormed = true) (named : namedSlot i = some n) :
    exec i s = .next (raise .codedParameterOutOfRange s) ∨
      exec i s = .next (raise .codedParameterOutOfRange s.clearCoef) := by
  cases i with
  | nop => cases named
  | coefWrite => cases named
  | coefClear => cases named
  | residual =>
    cases named
    exact .inr (by simp [exec, execResidual, residualEffect, withPlane_absent absent wf])
  | waitProgress =>
    cases named
    exact .inl (by simp [exec, execWaitProgress, waitReached_absent absent])
  | regWrite | picInit | picFree => cases named; exact .inl (congrArg (finish _ s) (withSlot_absent absent))
  | picDone | setCtb | setSlice | setCu | markTb | markPb | setScaling | deblock | sao | setProgress =>
    cases named; exact .inl (congrArg (finish _ s) (withInFlight_absent absent))
  | setSao | putSample | intraPred | interPred =>
    cases named; exact .inl (congrArg (finish _ s) (withPlane_absent absent wf))

end

/-- Settles O6: the check of the slot comes first in every command that names one. -/
theorem slotOutOfRangeFaults : Obligations.SlotOutOfRangeFaults := by
  intro i s n wf named absent
  rcases exec_slot_absent absent wf named with h | h
  · exact ⟨_, h, faulted_raise _ s⟩
  · exact ⟨_, h, faulted_raise_clearCoef _ s⟩

end Sys2Proof.Machine

namespace Sys2Proof.Machine

/-! ## How a completed command leaves the control state (R22, R41) -/

section
variable {s u : State} {i : Instr}

/-- A command removes its words and counts itself, and touches no other register of an engine: what the frame of every
completing command rests on. -/
theorem Effect.completed (h : Effect s i u) (len : Nat) : Completed len s (complete len u) where
  queue := by rw [me_complete, h.me_eq]
  cmdCount := by rw [me_complete, h.me_eq]
  faulted := by rw [me_complete, h.me_eq]
  errCode := by rw [me_complete, h.me_eq]
  errCmd := by rw [me_complete, h.me_eq]
  irqEn := by rw [me_complete, h.me_eq]
  others e he := (engine_complete_other u len (h.cur_eq ▸ he)).trans (h.engine_other he)
  cur := h.cur_eq
  params := h.params_eq
  agenda := by cases h <;> rfl
  ticks := by cases h <;> rfl
  reply := by cases h <;> rfl

/-- A command whose effect is a new slot `n` changes that slot alone. -/
theorem Effect.changesSlot {n : BitVec 5} {sl : Slot} (h : Effect s i (s.setSlot n sl)) (len : Nat) :
    ChangesSlot len n s (complete len (s.setSlot n sl)) where
  completed := h.completed len
  coef := by simp [KeepsCoef]
  slots _ hm := slot_setSlot_other s sl hm
  memory _ := rfl
  warnings := ⟨rfl, rfl⟩

end

/-! ## The coefficient buffer (R40) -/

theorem coefAt_set_same (g : Engine) (x y : Nat) (v : BitVec 16) :
    Engine.coefAt { g with coef := tableSet 0#16 g.coef (coefKey x y) v } x y = v.toInt := by
  simp [Engine.coefAt]

theorem coefAt_set_other (g : Engine) {x y x' y' : Nat} (v : BitVec 16) (hx : x < 32) (hx' : x' < 32)
    (h : ¬ (x' = x ∧ y' = y)) :
    Engine.coefAt { g with coef := tableSet 0#16 g.coef (coefKey x y) v } x' y' = g.coefAt x' y' := by
  simp only [Engine.coefAt]
  rw [tableGet_set_other 0#16 g.coef v fun e => h (coefKey_inj hx' hx e)]

theorem coefAt_complete (s : State) (len x y : Nat) : (complete len s).me.coefAt x y = s.me.coefAt x y := by
  rw [me_complete]
  rfl

theorem coefAt_clearCoef (s : State) (x y : Nat) : s.clearCoef.me.coefAt x y = 0 := by
  rw [me_clearCoef]
  rfl

/-- Settles O33: the effect is `State.clearCoef`. -/
theorem coefClearResult : Obligations.CoefClearResult := fun s =>
  ⟨complete 1 s.clearCoef, rfl, Effect.coefClear.completed 1, fun _ => rfl, fun _ => rfl, ⟨rfl, rfl⟩,
    fun x y => (coefAt_complete _ 1 x y).trans (coefAt_clearCoef s x y)⟩

/-- Settles O32: the effect is one entry of the executing engine's table. -/
theorem coefWriteResult : Obligations.CoefWriteResult := by
  intro s cx cy v
  refine ⟨_, rfl, (Effect.coefWrite cx cy v).completed 2, fun _ => rfl, fun _ => rfl, ⟨rfl, rfl⟩, ?_, ?_⟩
  · rw [coefAt_complete, me_setEngine, coefAt_set_same]
  · intro x y hx _ h
    rw [coefAt_complete, me_setEngine, coefAt_set_other s.me v cx.isLt hx h]

/-! ## The scaling factors (R39, R85) -/

theorem scalingAt_set_same (sl : Slot) (z m x y : Nat) (v : BitVec 8) :
    Slot.scalingAt { sl with scaling := tableSet scalingReset sl.scaling (scalingKey z m x y) v } z m x y = v := by
  simp [Slot.scalingAt]

theorem scalingAt_set_other (sl : Slot) {z m x y z' m' x' y' : Nat} (v : BitVec 8) (hm : m < 8) (hm' : m' < 8)
    (hx : x < 32) (hx' : x' < 32) (hy : y < 32) (hy' : y' < 32) (h : ¬ (z' = z ∧ m' = m ∧ x' = x ∧ y' = y)) :
    Slot.scalingAt { sl with scaling := tableSet scalingReset sl.scaling (scalingKey z m x y) v } z' m' x' y' =
      sl.scalingAt z' m' x' y' := by
  simp only [Slot.scalingAt]
  rw [tableGet_set_other scalingReset sl.scaling v fun e => h (scalingKey_inj hm' hm hx' hx hy' hy e)]

/-- SET_SCALING of a slot in flight: a fault where an operand is out of range, else one entry of the slot's table. -/
theorem setScalingEffect_inFlight {s : State} {n : BitVec 5} (flight : InFlight s n) (z : BitVec 2) (m : BitVec 3)
    (x y : BitVec 5) (v : BitVec 8) : setScalingEffect n z m x y v s =
      if 5 < m.toNat ∨ 4 * 2 ^ z.toNat ≤ x.toNat ∨ 4 * 2 ^ z.toNat ≤ y.toNat ∨ v = 0 then
        .error .codedParameterOutOfRange
      else .ok (s.setSlot n { s.slot n with
        scaling := tableSet scalingReset (s.slot n).scaling (scalingKey z.toNat m.toNat x.toNat y.toNat) v }) :=
  withInFlight_pass flight.1 flight.2

/-- Settles O31: the four range checks, then the entry that is written and those that are not. -/
theorem setScalingResult : Obligations.SetScalingResult := by
  intro s n z m x y v flight
  have eq := setScalingEffect_inFlight flight z m x y v
  constructor
  · intro hm hx hy hv
    rw [if_neg (by simp only [not_or]; exact ⟨by omega, by omega, by omega, hv⟩)] at eq
    refine ⟨_, congrArg (finish 2 s) eq, (setScalingEffect_ok eq).changesSlot 2, ?_, ?_, ?_⟩
    · simp
    · rw [slot_complete, slot_setSlot_same, scalingAt_set_same]
    · intro z' m' x' y' hm' hx' hy' h
      rw [slot_complete, slot_setSlot_same, scalingAt_set_other _ v m.isLt hm' x.isLt hx' y.isLt hy' h]
  · intro hv
    rw [if_pos (.inr (.inr (.inr hv)))] at eq
    exact ⟨_, congrArg (finish 2 s) eq, faulted_raise _ s⟩

end Sys2Proof.Machine

namespace Sys2Proof.Machine

/-! ## The samples of a block (R30) -/

section
variable {n : BitVec 5} {set : PlaneSet} {c x y w h : Nat} {f : Nat → Nat → Int}

theorem mem_blockWrites {p : Nat × Int} : p ∈ blockWrites n set c x y w h f ↔
    ∃ i j, i < w ∧ j < h ∧ p = (sampleAddr n set c (x + i) (y + j), f i j) := by
  simp only [blockWrites, List.mem_flatMap, List.mem_map, List.mem_range]
  constructor
  · rintro ⟨j, hj, i, hi, rfl⟩
    exact ⟨i, j, hi, hj, rfl⟩
  · rintro ⟨i, j, hi, hj, rfl⟩
    exact ⟨j, hj, i, hi, rfl⟩

/-- The writes of a block reach no byte outside it. -/
theorem memByte_blockWrites_other (m : List Host.Cell) {a : Nat} (ha : ¬ InBlock n set c x y w h a) :
    memByte? (memSetSamples m (blockWrites n set c x y w h f)) a = memByte? m a :=
  memByte_setSamples_other m _ fun p hp => by
    obtain ⟨i, j, hi, hj, rfl⟩ := mem_blockWrites.mp hp
    exact ⟨fun e => ha ⟨i, j, hi, hj, .inl e⟩, fun e => ha ⟨i, j, hi, hj, .inr e⟩⟩

/-- A sample of the block reads back as the value written: no other position of the block has its address. -/
theorem memSample_blockWrites (m : List Host.Cell) (hc : c < 4) (hx : ∀ i < w, x + i < 65536)
    (hy : ∀ j < h, y + j < 65536) {i j : Nat} (hi : i < w) (hj : j < h) :
    memSample? (memSetSamples m (blockWrites n set c x y w h f)) (sampleAddr n set c (x + i) (y + j)) =
      some (BitVec.ofInt 16 (f i j)) := by
  refine memSample_setSamples_mem m _ (fun p hp => ?_) (mem_blockWrites.mpr ⟨i, j, hi, hj, rfl⟩) fun p hp e => ?_
  · obtain ⟨i', j', -, -, rfl⟩ := mem_blockWrites.mp hp
    exact sampleAddr_even n set c _ _
  · obtain ⟨i', j', hi', hj', rfl⟩ := mem_blockWrites.mp hp
    obtain ⟨-, -, -, ex, ey⟩ := sampleAddr_inj hc hc (hx i' hi') (hx i hi) (hy j' hj') (hy j hj) e
    rw [Nat.add_left_cancel ex, Nat.add_left_cancel ey]

end

/-! ## RESIDUAL (R89, R94) -/

/-- What RESIDUAL writes at position (i, j) of its block: the sample plus its residual, clipped. -/
def residualSample (s : State) (n : BitVec 5) (c : BitVec 2) (k : BitVec 3) (tskip : Bool) (qp : BitVec 7)
    (x y : BitVec 16) (i j : Nat) : Int :=
  clip1 ((s.slot n).cfg.bitDepth c.toNat)
    (s.sample n .recon c.toNat (x.toNat + i) (y.toNat + j) 0 +
      entry ((blockResidual (s.slot n) s.me c.toNat k.toNat qp.toNat x.toNat y.toNat tskip).getD j []) i)

/-- The checks of R94 that follow those of the slot and its plane. -/
structure ResidualChecks (s : State) (n : BitVec 5) (c : BitVec 2) (k : BitVec 3) (tskip : Bool) (qp : BitVec 7)
    (x y : BitVec 16) : Prop where
  block : BlockInPlane (s.slot n).cfg c.toNat k.toNat x.toNat y.toNat
  qpInRange : (qp.toNat : Int) ≤ 51 + (s.slot n).cfg.qpBdOffset c.toNat
  skip : tskip = true → k = 2
  inside : ∀ a b, a < 32 → b < 32 → (2 ^ k.toNat ≤ a ∨ 2 ^ k.toNat ≤ b) → s.me.coefAt a b = 0

theorem coefOutside_eq_false_iff {g : Engine} {N : Nat} :
    coefOutside g N = false ↔ ∀ a b, a < 32 → b < 32 → (N ≤ a ∨ N ≤ b) → g.coefAt a b = 0 := by
  simp only [coefOutside, List.any_eq_false, List.mem_range, decide_eq_true_eq, Bool.not_eq_true, not_and, not_not]
  exact ⟨fun h a b ha hb => h b hb a ha, fun h b hb a ha => h a b ha hb⟩

section
variable {s : State} {n : BitVec 5} {c : BitVec 2} {k : BitVec 3} {tskip : Bool} {qp : BitVec 7} {x y : BitVec 16}

/-- A RESIDUAL whose checks pass writes its block. -/
theorem residualEffect_pass (ready : PlaneReady s n c) (checks : ResidualChecks s n c k tskip qp x y) :
    residualEffect n c k tskip qp x y s = .ok (s.setSamples (blockWrites n .recon c.toNat x.toNat y.toNat
      (2 ^ k.toNat) (2 ^ k.toNat) (residualSample s n c k tskip qp x y))).drawn := by
  obtain ⟨⟨hk2, hk5, hx, hy, hw, hh⟩, hqp, hskip, hcoef⟩ := checks
  obtain ⟨hc, ⟨hn, hf⟩, hp⟩ := ready
  have skip4 : ¬ (tskip = true ∧ 2 ^ k.toNat ≠ 4) := fun ⟨ht, h4⟩ => h4 (by rw [hskip ht]; rfl)
  have range : ¬ (k.toNat < 2 ∨ 5 < k.toNat) := by omega
  have aligned : ¬ (x.toNat % 2 ^ k.toNat ≠ 0 ∨ y.toNat % 2 ^ k.toNat ≠ 0) := by simp [hx, hy]
  have place : ¬ ((s.slot n).cfg.planeW c.toNat < x.toNat + 2 ^ k.toNat ∨
      (s.slot n).cfg.planeH c.toNat < y.toNat + 2 ^ k.toNat) := by omega
  have outside : ¬ coefOutside s.me (2 ^ k.toNat) = true := by
    simpa using coefOutside_eq_false_iff.mpr hcoef
  rw [residualEffect, withPlane_pass hc hn hf hp]
  dsimp only
  rw [if_neg range, if_neg aligned, if_neg place, if_neg (not_lt.mpr hqp), if_neg skip4, if_neg outside]
  rfl

/-- A RESIDUAL that does not fault has passed every check. -/
theorem residualEffect_ok_checks {u : State} (h : residualEffect n c k tskip qp x y s = .ok u) :
    PlaneReady s n c ∧ ResidualChecks s n c k tskip qp x y := by
  obtain ⟨hc, hn, hf, hp, h⟩ := withPlane_ok.mp h
  dsimp only at h
  split_ifs at h with range aligned place hqp skip outside
  refine ⟨⟨hc, ⟨hn, hf⟩, hp⟩, ⟨by unfold BlockInPlane; omega, not_lt.mp hqp, fun ht => ?_, ?_⟩⟩
  · have h4 : 2 ^ k.toNat = 2 ^ 2 := by simpa [ht] using skip
    exact BitVec.eq_of_toNat_eq (Nat.pow_right_injective (le_refl 2) h4)
  · exact coefOutside_eq_false_iff.mp (by simpa using outside)

/-- The state a RESIDUAL leaves when its checks pass. -/
def residualDone (s : State) (n : BitVec 5) (c : BitVec 2) (k : BitVec 3) (tskip : Bool) (qp : BitVec 7)
    (x y : BitVec 16) : State :=
  complete 2 (s.setSamples (blockWrites n .recon c.toNat x.toNat y.toNat (2 ^ k.toNat) (2 ^ k.toNat)
    (residualSample s n c k tskip qp x y))).drawn.clearCoef

theorem exec_residual_pass (ready : PlaneReady s n c) (checks : ResidualChecks s n c k tskip qp x y) :
    exec (.residual n c k tskip qp x y) s = .next (residualDone s n c k tskip qp x y) := by
  simp only [exec, execResidual, residualEffect_pass ready checks]
  rfl

theorem residualDone_completed (ready : PlaneReady s n c) (checks : ResidualChecks s n c k tskip qp x y) :
    Completed 2 s (residualDone s n c k tskip qp x y) :=
  (residualEffect_ok (residualEffect_pass ready checks)).completed 2

/-- Each sample of the block holds what RESIDUAL writes there. -/
theorem memSample_residualDone (ready : PlaneReady s n c)
    (block : BlockInPlane (s.slot n).cfg c.toNat k.toNat x.toNat y.toNat) {i j : Nat} (hi : i < 2 ^ k.toNat)
    (hj : j < 2 ^ k.toNat) :
    memSample? (residualDone s n c k tskip qp x y).mem (sampleAddr n .recon c.toNat (x.toNat + i) (y.toNat + j)) =
      some (BitVec.ofInt 16 (residualSample s n c k tskip qp x y i j)) :=
  memSample_blockWrites s.mem (Nat.lt_succ_of_lt (planeExists_lt ready.2.2)) block.coordinates.1 block.coordinates.2
    hi hj

end

/-- Settles O36: the checks pass, and the block is written by `memSample_residualDone`. -/
theorem residualResult : Obligations.ResidualResult := by
  intro s n c k tskip qp x y ready block hqp skip inside
  have checks : ResidualChecks s n c k tskip qp x y := ⟨block, hqp, skip, inside⟩
  refine ⟨_, exec_residual_pass ready checks, fun a b => ?_, ⟨residualDone_completed ready checks, fun _ => rfl,
    fun _ ha => memByte_blockWrites_other s.mem ha, ⟨rfl, rfl⟩⟩, fun i j => memSample_residualDone ready block⟩
  exact (coefAt_complete _ 2 a b).trans (coefAt_clearCoef _ a b)

end Sys2Proof.Machine

namespace Sys2Proof.Machine

/-! ## Blocks as lists -/

theorem entry_map_range (N : Nat) (f : Nat → Int) {i : Nat} (hi : i < N) : entry ((List.range N).map f) i = f i := by
  simp [entry, List.getD_eq_getElem?_getD, hi]

theorem entry_map_range_eq_zero {N : Nat} {f : Nat → Int} {i : Nat} (h : i < N → f i = 0) :
    entry ((List.range N).map f) i = 0 := by
  by_cases hi : i < N
  · rw [entry_map_range N f hi, h hi]
  · simp [entry, List.getD_eq_getElem?_getD, hi]

section
variable {N : Nat} {f g : Nat → Nat → Int}

theorem columns_congr (h : ∀ x < N, ∀ y < N, f x y = g x y) : columns N f = columns N g :=
  List.map_congr_left fun x hx => List.map_congr_left fun y hy =>
    h x (List.mem_range.mp hx) y (List.mem_range.mp hy)

theorem columns_map (N : Nat) (f : Nat → Nat → Int) (h : Int → Int) :
    (columns N f).map (fun col => col.map h) = columns N fun x y => h (f x y) := by
  simp [columns, Function.comp_def]

theorem entry_columns (f : Nat → Nat → Int) {x y : Nat} (hx : x < N) (hy : y < N) :
    entry ((columns N f).getD x []) y = f x y := by
  have hcol : (columns N f).getD x [] = (List.range N).map (f x) := by
    simp [columns, List.getD_eq_getElem?_getD, hx]
  rw [hcol, entry_map_range N (f x) hy]

theorem columns_const (N : Nat) (v : Int) : columns N (fun _ _ => v) = List.replicate N (List.replicate N v) := by
  simp [columns]

end

/-! ## The transform of a block with a DC coefficient alone (R80, R83) -/

/-- A sum all of whose terms but the first are 0. -/
theorem sumTo_eq_first {f : Nat → Int} {n : Nat} (hn : 0 < n) (h : ∀ k, 0 < k → f k = 0) : sumTo n f = f 0 := by
  induction n with
  | zero => omega
  | succ n ih =>
    rw [sumTo]
    rcases Nat.eq_zero_or_pos n with rfl | hpos
    · exact Int.zero_add (f 0)
    · rw [ih hpos, h n hpos, Int.add_zero]

/-- One DC coefficient gives the first basis function times that coefficient. -/
theorem transform1D_dc (t : TransformType) {N : Nat} (hN : 0 < N) {xs : List Int} (h : ∀ k, 0 < k → entry xs k = 0) :
    transform1D t N xs = (List.range N).map fun n => transformEntry t N 0 n * entry xs 0 :=
  List.map_congr_left fun n _ => sumTo_eq_first hN fun k hk => by rw [h k hk, Int.mul_zero]

/-- The rounding and clip between the column and the row pass (R83). -/
def betweenPasses (e : Int) : Int := clip3 (-32768) 32767 (shr (e + 64) 7)

theorem betweenPasses_zero : betweenPasses 0 = 0 := by decide

theorem transform2D_eq (t : TransformType) (N : Nat) (d : Nat → Nat → Int) : transform2D t N d =
    (List.range N).map fun y => transform1D t N
      (((columns N d).map fun col => (transform1D t N col).map betweenPasses).map fun col => entry col y) := rfl

/-- The column pass of a block whose coefficients lie in its first row. -/
theorem columnPass_dc (t : TransformType) {N : Nat} (hN : 0 < N) {d : Nat → Nat → Int}
    (h : ∀ x < N, ∀ y < N, 0 < y → d x y = 0) :
    (columns N d).map (fun col => (transform1D t N col).map betweenPasses) =
      columns N fun x y => betweenPasses (transformEntry t N 0 y * d x 0) := by
  unfold columns
  rw [List.map_map]
  refine List.map_congr_left fun x hx => ?_
  have zero : ∀ k, 0 < k → entry ((List.range N).map (d x)) k = 0 := fun k hk =>
    entry_map_range_eq_zero fun hkN => h x (List.mem_range.mp hx) k hkN hk
  rw [Function.comp_apply, transform1D_dc t hN zero, entry_map_range N (d x) hN, List.map_map]
  rfl

theorem transform2D_dc (t : TransformType) {N : Nat} (hN : 0 < N) {d : Nat → Nat → Int}
    (h : ∀ x < N, ∀ y < N, ¬ (x = 0 ∧ y = 0) → d x y = 0) : transform2D t N d =
      columns N fun y x => transformEntry t N 0 x * betweenPasses (transformEntry t N 0 y * d 0 0) := by
  rw [transform2D_eq, columnPass_dc t hN fun x hx y hy hpos => h x hx y hy (by omega)]
  refine List.map_congr_left fun y hy => ?_
  have row : (columns N fun x y => betweenPasses (transformEntry t N 0 y * d x 0)).map (fun col => entry col y) =
      (List.range N).map fun x => betweenPasses (transformEntry t N 0 y * d x 0) := by
    unfold columns
    rw [List.map_map]
    exact List.map_congr_left fun x _ => entry_map_range N _ (List.mem_range.mp hy)
  rw [row, transform1D_dc t hN, entry_map_range N _ hN]
  intro k hk
  refine entry_map_range_eq_zero fun hkN => ?_
  rw [h k hkN 0 hN (by omega), Int.mul_zero, betweenPasses_zero]

/-! ## Levels that are zero (R93) -/

/-- Rounding half of the divisor alone gives 0. -/
theorem shr_half {k : Nat} (hk : 1 ≤ k) : shr (2 ^ (k - 1)) k = 0 := by
  obtain ⟨j, rfl⟩ := Nat.exists_eq_add_of_le' hk
  rw [shr_eq_div, Nat.add_sub_cancel]
  exact Int.ediv_eq_zero_of_lt (two_pow_pos_int j).le (by rw [pow_succ]; have := two_pow_pos_int j; omega)

theorem scaleLevel_zero {bd k : Nat} (h : 6 ≤ bd + k) (qp : Nat) (m : Int) : scaleLevel bd k qp m 0 = 0 := by
  simp only [scaleLevel, shl, Int.zero_mul, Int.zero_add]
  rw [shr_half (by omega)]
  rfl

theorem finalShift_zero {bd : Nat} (h : bd ≤ 19) : finalShift bd 0 = 0 := by
  simp only [finalShift, Int.zero_add]
  exact shr_half (by omega)

/-- A block whose levels are all 0 has residual 0, whichever way its residual is computed. -/
theorem residualRows_zero {bd k : Nat} (hbd : 8 ≤ bd ∧ bd ≤ 12) (qp : Nat) (bypass tskip : Bool) (t : TransformType)
    (m : Nat → Nat → Int) {coef : Nat → Nat → Int} (h : ∀ x < 2 ^ k, ∀ y < 2 ^ k, coef x y = 0) :
    residualRows bd k qp bypass tskip t m coef = columns (2 ^ k) fun _ _ => 0 := by
  have scaled : ∀ x < 2 ^ k, ∀ y < 2 ^ k, scaleLevel bd k qp (m x y) (coef x y) = 0 := fun x hx y hy => by
    rw [h x hx y hy, scaleLevel_zero (by omega)]
  have shifted : finalShift bd 0 = 0 := finalShift_zero (by omega)
  have hN : 0 < 2 ^ k := Nat.two_pow_pos k
  unfold residualRows
  dsimp only
  split_ifs
  · exact columns_congr fun y hy x hx => h x hx y hy
  · refine columns_congr fun y hy x hx => ?_
    rw [scaled x hx y hy, shl, Int.zero_mul, shifted]
  · rw [transform2D_dc t hN fun x hx y hy _ => scaled x hx y hy, scaled 0 hN 0 hN]
    refine (columns_map _ _ _).trans (columns_congr fun y _ x _ => ?_)
    rw [Int.mul_zero, betweenPasses_zero, Int.mul_zero, shifted]

theorem clip1_of_inRange {bd : Nat} {v : Int} (h : InRange bd v) : clip1 bd v = v := by
  obtain ⟨lo, hi⟩ := h
  unfold clip1 clip3
  split_ifs <;> omega

/-- What a command reads from a written sample: its value masked to the depth (R53). -/
theorem sample_of_stored {s : State} {n : BitVec 5} {set : PlaneSet} {c x y : Nat} {v : BitVec 16}
    (h : memSample? s.mem (sampleAddr n set c x y) = some v) (use : Nat) :
    s.sample n set c x y use = ((v.toNat % 2 ^ (s.slot n).cfg.bitDepth c : Nat) : Int) := by
  simp only [State.sample, State.readSample, h]
  rfl

section
variable {s : State} {n : BitVec 5} {c : BitVec 2} {k : BitVec 3} {tskip : Bool} {qp : BitVec 7} {x y : BitVec 16}

/-- With every level of the block zero, RESIDUAL writes back the value it reads. -/
theorem residualSample_zero (ready : PlaneReady s n c) (valid : validCfg s.params (s.slot n).cfg = none)
    (zero : ∀ a b, a < 2 ^ k.toNat → b < 2 ^ k.toNat → s.me.coefAt a b = 0) {i j : Nat} (hi : i < 2 ^ k.toNat)
    (hj : j < 2 ^ k.toNat) : residualSample s n c k tskip qp x y i j =
      s.sample n .recon c.toNat (x.toNat + i) (y.toNat + j) 0 := by
  have depth := validCfg_bitDepth valid ready.2.2
  rw [residualSample, blockResidual, residualRows_zero depth _ _ _ _ _ fun a ha b hb => zero a b ha hb,
    entry_columns _ hj hi, Int.add_zero, clip1_of_inRange (InRange.sample s n _ _ _ _ _)]

end

/-- A value masked to `bd` bits and stored again is the value modulo 2 to the `bd`. -/
theorem ofInt_masked (v : BitVec 16) (bd : Nat) :
    (BitVec.ofInt 16 ((v.toNat % 2 ^ bd : Nat) : Int)).toNat = v.toNat % 2 ^ bd := by
  rw [BitVec.ofInt_natCast, BitVec.toNat_ofNat]
  exact Nat.mod_eq_of_lt (Nat.lt_of_le_of_lt (Nat.mod_le _ _) v.isLt)

/-- Settles O45: a fault leaves the memory alone, and a RESIDUAL that completes writes back what it read. -/
theorem residualZero : Obligations.ResidualZero := by
  intro s n c k tskip qp x y valid zero
  cases h : residualEffect n c k tskip qp x y s with
  | error code =>
    refine ⟨raise code s.clearCoef, by simp [exec, execResidual, h],
      fun i j v _ _ hv => ⟨v, hv, rfl, fun _ => rfl⟩, fun ready block hqp skip all => ?_⟩
    rw [residualEffect_pass ready ⟨block, hqp, skip, fun a b ha hb _ => all a b ha hb⟩] at h
    cases h
  | ok u =>
    obtain ⟨ready, checks⟩ := residualEffect_ok_checks h
    refine ⟨_, exec_residual_pass ready checks, fun i j v hi hj hv => ?_,
      fun _ _ _ _ _ => residualDone_completed ready checks⟩
    refine ⟨_, memSample_residualDone ready checks.block hi hj, ?_⟩
    rw [residualSample_zero ready valid zero hi hj, sample_of_stored hv]
    have masked := ofInt_masked v ((s.slot n).cfg.bitDepth c.toNat)
    exact ⟨by rw [masked, Nat.mod_mod], fun hlt => BitVec.eq_of_toNat_eq (masked.trans (Nat.mod_eq_of_lt hlt))⟩

/-! ## A DC level alone (R91) -/

theorem clip3_of_bounds {lo hi v : Int} (hlo : lo ≤ v) (hhi : v ≤ hi) : clip3 lo hi v = v := by
  unfold clip3
  split_ifs <;> omega

/-- At 8 bits and qP 4 a flat factor scales a 4 by 4 level by 32, as long as the clip of R76 is not reached. -/
theorem scaleLevel_flat {L : Int} (lo : -1024 ≤ L) (hi : L ≤ 1023) : scaleLevel 8 2 4 16 L = 32 * L := by
  have rounded : shr (shl (L * 16 * entry levelScale (4 % 6)) (4 / 6) + 2 ^ (8 + 2 - 5 - 1)) (8 + 2 - 5) = 32 * L := by
    rw [shr_eq_div]
    show (L * 16 * 64 * 1 + 16) / 32 = 32 * L
    omega
  rw [scaleLevel, rounded, clip3_of_bounds (by omega) (by omega)]

/-- The value between the passes of a DC level does not reach the clip of R83. -/
theorem betweenPasses_dc {L : Int} (lo : -1024 ≤ L) (hi : L ≤ 1023) :
    betweenPasses (64 * (32 * L)) = shr (32 * L * 64 + 64) 7 := by
  have clipped : -32768 ≤ shr (64 * (32 * L) + 64) 7 ∧ shr (64 * (32 * L) + 64) 7 ≤ 32767 := by
    rw [shr_eq_div]
    omega
  rw [betweenPasses, clip3_of_bounds clipped.1 clipped.2, Int.mul_comm 64]

/-- Settles O46: scaling gives the block one coefficient, and `transform2D_dc` its transform. -/
theorem residualFlatDc : Obligations.ResidualFlatDc := by
  intro L lo hi
  have zero : ∀ x < 4, ∀ y < 4, ¬ (x = 0 ∧ y = 0) →
      scaleLevel 8 2 4 16 (if x = 0 ∧ y = 0 then L else 0) = 0 := fun x _ y _ h => by
    rw [if_neg h, scaleLevel_zero (by omega)]
  have basis (n : Nat) : transformEntry .dct 4 0 n = 64 := by simp [transformEntry, dctEntry]
  have rows : transform2D .dct 4 (fun x y => scaleLevel 8 2 4 16 (if x = 0 ∧ y = 0 then L else 0)) =
      columns 4 fun _ _ => 64 * shr (32 * L * 64 + 64) 7 := by
    rw [transform2D_dc .dct (by omega) zero]
    simp only [basis, and_self, if_true, scaleLevel_flat lo hi, betweenPasses_dc lo hi]
  show (transform2D .dct 4 _).map (fun row => row.map (finalShift 8)) = _
  rw [rows, columns_map, columns_const, Int.mul_comm 64]
  rfl

end Sys2Proof.Machine

namespace Sys2Proof.Machine

/-! ## INTRA_PRED (R111) -/

/-- What INTRA_PRED writes at position (i, j) of its block. -/
def intraSample (s : State) (n : BitVec 5) (c : BitVec 2) (k : BitVec 3) (mode : BitVec 6) (x y : BitVec 16)
    (i j : Nat) : Int :=
  predictedSample
    (intraRefs (s.slot n).cfg (references s n c.toNat x.toNat y.toNat (2 ^ k.toNat)) c.toNat k.toNat mode.toNat)
    ((s.slot n).cfg.bitDepth c.toNat) c.toNat k.toNat mode.toNat i j

section
variable {s : State} {n : BitVec 5} {c : BitVec 2} {k : BitVec 3} {mode : BitVec 6} {x y : BitVec 16}

/-- An INTRA_PRED whose checks pass writes its block. -/
theorem intraPredEffect_pass (ready : PlaneReady s n c)
    (block : BlockInPlane (s.slot n).cfg c.toNat k.toNat x.toNat y.toNat) (hmode : mode.toNat ≤ 34) :
    intraPredEffect n c k mode x y s = .ok (s.setSamples (blockWrites n .recon c.toNat x.toNat y.toNat (2 ^ k.toNat)
      (2 ^ k.toNat) (intraSample s n c k mode x y))).drawn := by
  obtain ⟨hc, ⟨hn, hf⟩, hp⟩ := ready
  obtain ⟨hk2, hk5, hx, hy, hw, hh⟩ := block
  have range : ¬ (k.toNat < 2 ∨ 5 < k.toNat ∨ 34 < mode.toNat) := by omega
  have aligned : ¬ (x.toNat % 2 ^ k.toNat ≠ 0 ∨ y.toNat % 2 ^ k.toNat ≠ 0) := by simp [hx, hy]
  have place : ¬ ((s.slot n).cfg.planeW c.toNat < x.toNat + 2 ^ k.toNat ∨
      (s.slot n).cfg.planeH c.toNat < y.toNat + 2 ^ k.toNat) := by omega
  rw [intraPredEffect, withPlane_pass hc hn hf hp]
  dsimp only
  rw [if_neg range, if_neg aligned, if_neg place]
  rfl

/-- The state an INTRA_PRED leaves when its checks pass. -/
def intraDone (s : State) (n : BitVec 5) (c : BitVec 2) (k : BitVec 3) (mode : BitVec 6) (x y : BitVec 16) : State :=
  complete 2 (s.setSamples (blockWrites n .recon c.toNat x.toNat y.toNat (2 ^ k.toNat) (2 ^ k.toNat)
    (intraSample s n c k mode x y))).drawn

theorem exec_intraPred_pass (ready : PlaneReady s n c)
    (block : BlockInPlane (s.slot n).cfg c.toNat k.toNat x.toNat y.toNat) (hmode : mode.toNat ≤ 34) :
    exec (.intraPred n c k mode x y) s = .next (intraDone s n c k mode x y) :=
  congrArg (finish 2 s) (intraPredEffect_pass ready block hmode)

theorem intraDone_completed (ready : PlaneReady s n c)
    (block : BlockInPlane (s.slot n).cfg c.toNat k.toNat x.toNat y.toNat) (hmode : mode.toNat ≤ 34) :
    Completed 2 s (intraDone s n c k mode x y) :=
  (intraPredEffect_ok (intraPredEffect_pass ready block hmode)).completed 2

/-- Each sample of the block holds what INTRA_PRED writes there. -/
theorem memSample_intraDone (ready : PlaneReady s n c)
    (block : BlockInPlane (s.slot n).cfg c.toNat k.toNat x.toNat y.toNat) {i j : Nat} (hi : i < 2 ^ k.toNat)
    (hj : j < 2 ^ k.toNat) :
    memSample? (intraDone s n c k mode x y).mem (sampleAddr n .recon c.toNat (x.toNat + i) (y.toNat + j)) =
      some (BitVec.ofInt 16 (intraSample s n c k mode x y i j)) :=
  memSample_blockWrites s.mem (Nat.lt_succ_of_lt (planeExists_lt ready.2.2)) block.coordinates.1 block.coordinates.2
    hi hj

end

/-- Settles O35: the checks pass, and the block is written by `memSample_intraDone`. -/
theorem intraPredResult : Obligations.IntraPredResult := by
  intro s n c k mode x y ready block hmode
  refine ⟨_, exec_intraPred_pass ready block hmode, ?_, ⟨intraDone_completed ready block hmode, fun _ => rfl,
    fun _ ha => memByte_blockWrites_other s.mem ha, ⟨rfl, rfl⟩⟩, fun i j => memSample_intraDone ready block⟩
  simp [KeepsCoef, intraDone]

/-! ## The memory an intra prediction reads (R97 to R102) -/

theorem sample_congr_mem (s : State) {m : List Host.Cell} {n : BitVec 5} {set : PlaneSet} {c x y : Nat}
    (h : memSample? m (sampleAddr n set c x y) = memSample? s.mem (sampleAddr n set c x y)) (use : Nat) :
    State.sample { s with mem := m } n set c x y use = s.sample n set c x y use := by
  show State.readSample { s with mem := m } use _ _ = s.readSample use _ _
  unfold State.readSample
  rw [h]
  rfl

/-- The gathered entries depend on the memory through the samples of the usable entries alone. -/
theorem references_congr_mem {s : State} {m : List Host.Cell} {n : BitVec 5} {c x y N : Nat}
    (agree : ∀ (o : Nat) (px py : Int), o < 4 * N + 1 → px = x + (refOffset N o).1 → py = y + (refOffset N o).2 →
      refUsable (s.slot n) (x * (s.slot n).cfg.subW c) (y * (s.slot n).cfg.subH c) (px * (s.slot n).cfg.subW c)
        (py * (s.slot n).cfg.subH c) = true →
      memSample? m (sampleAddr n .recon c px.toNat py.toNat) =
        memSample? s.mem (sampleAddr n .recon c px.toNat py.toNat)) :
    references { s with mem := m } n c x y N = references s n c x y N := by
  refine List.map_congr_left fun o ho => if_ctx_congr Iff.rfl (fun usable => congrArg some ?_) fun _ => rfl
  exact sample_congr_mem s (agree o _ _ (List.mem_range.mp ho) rfl rfl usable) 0

/-- Settles O49: both runs predict from the same entries by `references_congr_mem`. -/
theorem intraIgnoresUnavailable : Obligations.IntraIgnoresUnavailable := by
  rintro s m n c k mode x y _ rfl ready block hmode agree
  have ready' : PlaneReady { s with mem := m } n c := ready
  have same (i j : Nat) : intraSample { s with mem := m } n c k mode x y i j = intraSample s n c k mode x y i j := by
    rw [intraSample, references_congr_mem agree]
    rfl
  refine ⟨_, _, exec_intraPred_pass ready block hmode, exec_intraPred_pass ready' block hmode, fun i j hi hj => ?_⟩
  rw [memSample_intraDone ready' block hi hj, memSample_intraDone ready block hi hj, same]

end Sys2Proof.Machine

namespace Sys2Proof.Machine

/-! ## Equal references (R114)

Every filter and every predictor is a rounded mean of reference entries, with weights that add up to the divisor: from
entries that all hold `v` it makes `v` again, as long as it reads no entry outside the array. -/

/-- A rounded mean of copies of `v`. -/
theorem shr_eq_of_eq_mul_add {a v r : Int} {k : Nat} (h : a = 2 ^ k * v + r) (h0 : 0 ≤ r) (h1 : r < 2 ^ k) :
    shr a k = v := by
  rw [shr_eq_div, h, Int.mul_add_ediv_left _ _ (two_pow_pos_int k).ne', Int.ediv_eq_zero_of_lt h0 h1, Int.add_zero]

/-- Each of the 4N + 1 entries of the reference array is `v`. -/
def FlatRefs (N : Nat) (v : Int) (p : List Int) : Prop := ∀ i ≤ 4 * N, entry p i = v

theorem flatRefs_replicate (N : Nat) (v : Int) : FlatRefs N v (List.replicate (4 * N + 1) v) := by
  intro i hi
  simp [entry, List.getD_eq_getElem?_getD, Nat.lt_succ_of_le hi]

section
variable {N : Nat} {v : Int} {p : List Int}

theorem FlatRefs.topRef (h : FlatRefs N v p) {x : Int} (lo : -1 ≤ x) (hi : x ≤ 2 * N - 1) : topRef p N x = v :=
  h _ (by omega)

theorem FlatRefs.leftRef (h : FlatRefs N v p) {y : Int} (lo : -1 ≤ y) (hi : y ≤ 2 * N - 1) : leftRef p N y = v :=
  h _ (by omega)

/-! ### Substitution and filtering (R103 to R106) -/

theorem fillForward_replicate (prev : Int) (m : Nat) (v : Int) :
    fillForward prev (List.replicate m (some v)) = List.replicate m v := by
  induction m generalizing prev with
  | zero => rfl
  | succ m ih => exact congrArg (v :: ·) (ih v)

theorem substitute_replicate_some (bd m : Nat) (v : Int) :
    substitute bd (List.replicate (m + 1) (some v)) = List.replicate (m + 1) v := fillForward_replicate v (m + 1) v

theorem firstAvailable_replicate_none (m : Nat) : firstAvailable (List.replicate m none) = none := by
  induction m with
  | zero => rfl
  | succ m ih => exact ih

theorem substitute_replicate_none (bd m : Nat) :
    substitute bd (List.replicate m none) = List.replicate m (2 ^ (bd - 1)) := by
  rw [substitute, firstAvailable_replicate_none]
  exact List.map_replicate

theorem FlatRefs.normalFilter (h : FlatRefs N v p) : FlatRefs N v (normalFilter N p) := by
  intro i hi
  rw [Machine.normalFilter, entry_map_range _ _ (Nat.lt_succ_of_le hi)]
  split_ifs with ends
  · exact h i hi
  · rw [h (i - 1) (by omega), h i hi, h (i + 1) (by omega)]
    exact shr_eq_of_eq_mul_add (r := 2) (by ring) (by norm_num) (by norm_num)

theorem FlatRefs.strongFilter (h : FlatRefs 32 v p) : FlatRefs 32 v (strongFilter p) := by
  have mean (wa wb : Int) (sum : wa + wb = 64) : shr (wa * v + wb * v + 32) 6 = v :=
    shr_eq_of_eq_mul_add (r := 32) (by rw [← Int.add_mul, sum]; ring) (by norm_num) (by norm_num)
  have corner : Machine.topRef p 32 (-1) = v := h.topRef (by norm_num) (by norm_num)
  have left : Machine.leftRef p 32 63 = v := h.leftRef (by norm_num) (by norm_num)
  have top : Machine.topRef p 32 63 = v := h.topRef (by norm_num) (by norm_num)
  intro i hi
  simp only [Machine.strongFilter, List.bind_eq_flatMap, List.pure_def, ← List.map_eq_flatMap, List.map_map]
  rw [entry_map_range 129 _ (Nat.lt_succ_of_le hi)]
  simp only [Function.comp_apply, corner, left, top]
  split_ifs
  · rfl
  · exact mean _ _ (by ring)
  · rfl
  · rfl
  · exact mean _ _ (by ring)

theorem FlatRefs.filteredRefs (h : FlatRefs N v p) (g : CfgRegs) (c mode : Nat) :
    FlatRefs N v (filteredRefs g c mode N p) := by
  unfold Machine.filteredRefs
  split_ifs with _ strong
  · obtain ⟨-, cond⟩ := Bool.and_eq_true_iff.mp strong
    obtain ⟨-, rfl, -⟩ := of_decide_eq_true cond
    exact h.strongFilter
  · exact h.normalFilter
  · exact h

/-! ### Planar and DC (R107, R108) -/

theorem sumTo_const {f : Nat → Int} {n : Nat} (h : ∀ i < n, f i = v) : sumTo n f = n * v := by
  induction n with
  | zero => simp [sumTo]
  | succ n ih =>
    rw [sumTo, ih fun i hi => h i (Nat.lt_succ_of_lt hi), h n (Nat.lt_succ_self n)]
    push_cast
    ring

variable {c k x y : Nat}

theorem FlatRefs.planarSample (h : FlatRefs (2 ^ k) v p) (hx : x < 2 ^ k) (hy : y < 2 ^ k) :
    planarSample p k x y = v := by
  rw [Machine.planarSample, h.leftRef (by omega) (by omega), h.topRef (by omega) (by omega),
    h.topRef (by omega) (by omega), h.leftRef (by omega) (by omega)]
  refine shr_eq_of_eq_mul_add (r := 2 ^ k) ?_ (two_pow_pos_int k).le (pow_lt_pow_right₀ (by norm_num) (by omega))
  push_cast
  ring

theorem FlatRefs.dcValue (h : FlatRefs (2 ^ k) v p) : dcValue p k = v := by
  rw [Machine.dcValue, sumTo_const fun i hi => h.topRef (by omega) (by omega),
    sumTo_const fun i hi => h.leftRef (by omega) (by omega)]
  refine shr_eq_of_eq_mul_add (r := 2 ^ k) ?_ (two_pow_pos_int k).le (pow_lt_pow_right₀ (by norm_num) (by omega))
  push_cast
  ring

theorem FlatRefs.dcSample (h : FlatRefs (2 ^ k) v p) (hx : x < 2 ^ k) (hy : y < 2 ^ k) : dcSample p c k x y = v := by
  have blend : shr (v + 3 * v + 2) 2 = v := shr_eq_of_eq_mul_add (r := 2) (by ring) (by norm_num) (by norm_num)
  have corner : shr (v + 2 * v + v + 2) 2 = v := shr_eq_of_eq_mul_add (r := 2) (by ring) (by norm_num) (by norm_num)
  rw [Machine.dcSample, h.dcValue, h.leftRef (by omega) (by omega), h.topRef (by omega) (by omega),
    h.topRef (by omega) (by omega), h.leftRef (by omega) (by omega), corner, blend]
  simp only [ite_self]

/-! ### Angular modes (R109, R110) -/

/-- The tables of R109: no angle is above 32, and a negative angle times its inverse is about 2 to the 13. -/
theorem intraPredAngle_table : ∀ mode < 35, 2 ≤ mode → intraPredAngle mode ≤ 32 ∧
    (intraPredAngle mode < 0 → invAngle mode < 0 ∧ intraPredAngle mode * invAngle mode ≤ 8194) := by decide

/-- `main` and `side` read `v` at every place of the reference array of a block of size `N`. -/
def FlatSide (N : Nat) (v : Int) (side : Int → Int) : Prop := ∀ i, -1 ≤ i → i ≤ 2 * (N : Int) - 1 → side i = v

/-- An entry at or above the angle's reach `N * a / 32`: below 0 it is projected onto the first places of the other
side. -/
theorem angularRef_flat {main side : Int → Int} (hm : FlatSide N v main) (hs : FlatSide N v side) {mode : Nat}
    (lo : 2 ≤ mode) (hi : mode ≤ 34) {i : Int} (reach : i < 0 → (N : Int) * intraPredAngle mode ≤ 32 * i)
    (inside : i ≤ 2 * N) : angularRef main side mode i = v := by
  unfold angularRef
  split_ifs with hi0
  · exact hm _ (by omega) (by omega)
  · obtain ⟨-, table⟩ := intraPredAngle_table mode (by omega) lo
    have reach := reach (by omega)
    have negative : intraPredAngle mode < 0 := by
      by_contra hn
      have := Int.mul_nonneg (Int.natCast_nonneg N) (not_lt.mp hn)
      omega
    obtain ⟨inv, product⟩ := table negative
    have positive : 0 < i * invAngle mode := Int.mul_pos_of_neg_of_neg (by omega) inv
    have bound : 32 * (i * invAngle mode) ≤ N * 8194 := calc
      32 * (i * invAngle mode) = 32 * i * invAngle mode := by ring
      _ ≤ N * intraPredAngle mode * invAngle mode := Int.mul_le_mul_of_nonpos_right reach inv.le
      _ = N * (intraPredAngle mode * invAngle mode) := by ring
      _ ≤ N * 8194 := Int.mul_le_mul_of_nonneg_left product (Int.natCast_nonneg N)
    rw [shr_eq_div]
    exact hs _ (by omega) (by omega)

/-- The last entry an interpolation reads lies outside the array only where its weight is 0. -/
theorem angularSample_flat {main side : Int → Int} (hm : FlatSide N v main) (hs : FlatSide N v side) {mode : Nat}
    (lo : 2 ≤ mode) (hi : mode ≤ 34) {along away : Nat} (halong : along < N) (haway : away < N) :
    angularSample main side mode along away = v := by
  obtain ⟨steep, -⟩ := intraPredAngle_table mode (by omega) lo
  have upper : ((away : Int) + 1) * intraPredAngle mode ≤ N * 32 := calc
    ((away : Int) + 1) * intraPredAngle mode ≤ (away + 1) * 32 := Int.mul_le_mul_of_nonneg_left steep (by omega)
    _ ≤ N * 32 := by omega
  have lower : (N : Int) * intraPredAngle mode ≤ (away + 1) * intraPredAngle mode ∨
      0 ≤ ((away : Int) + 1) * intraPredAngle mode := by
    rcases le_or_gt 0 (intraPredAngle mode) with ha | ha
    · exact .inr (Int.mul_nonneg (by omega) ha)
    · exact .inl (Int.mul_le_mul_of_nonpos_right (by omega) ha.le)
  unfold Machine.angularSample lowBits
  simp only [shr_eq_div _ 5]
  generalize ((away : Int) + 1) * intraPredAngle mode = t at *
  have first : angularRef main side mode (along + t / 2 ^ 5 + 1) = v :=
    angularRef_flat hm hs lo hi (by omega) (by omega)
  have second : (t % 2 ^ 5).toNat * angularRef main side mode (along + t / 2 ^ 5 + 2) = (t % 2 ^ 5).toNat * v := by
    by_cases whole : t % 2 ^ 5 = 0
    · simp only [whole, Int.toNat_zero, Nat.cast_zero, Int.zero_mul]
    · rw [angularRef_flat hm hs lo hi (by omega) (by omega)]
  rw [first, second, ← shr_eq_div]
  exact shr_eq_of_eq_mul_add (r := 16) (by ring) (by norm_num) (by norm_num)

variable {bd mode : Nat}

theorem FlatRefs.angularPredicted (h : FlatRefs (2 ^ k) v p) (hv : InRange bd v) (lo : 2 ≤ mode) (hi : mode ≤ 34)
    (hx : x < 2 ^ k) (hy : y < 2 ^ k) : angularPredicted p bd c k mode x y = v := by
  have top : FlatSide (2 ^ k) v (Machine.topRef p (2 ^ k)) := fun _ => h.topRef
  have left : FlatSide (2 ^ k) v (Machine.leftRef p (2 ^ k)) := fun _ => h.leftRef
  have edge : clip1 bd (v + shr (v - v) 1) = v := by
    rw [Int.sub_self, show shr 0 1 = 0 from rfl, Int.add_zero, clip1_of_inRange hv]
  unfold Machine.angularPredicted
  dsimp only
  split_ifs
  · rw [top 0 (by omega) (by omega), left y (by omega) (by omega), left (-1) (by omega) (by omega), edge]
  · exact angularSample_flat top left lo hi hx hy
  · rw [left 0 (by omega) (by omega), top x (by omega) (by omega), top (-1) (by omega) (by omega), edge]
  · exact angularSample_flat left top lo hi hy hx

/-- Every mode makes `v` of a flat reference array. -/
theorem FlatRefs.predictedSample (h : FlatRefs (2 ^ k) v p) (hv : InRange bd v) (hi : mode ≤ 34) (hx : x < 2 ^ k)
    (hy : y < 2 ^ k) : predictedSample p bd c k mode x y = v := by
  unfold Machine.predictedSample
  split_ifs
  · exact h.planarSample hx hy
  · exact h.dcSample hx hy
  · exact h.angularPredicted hv (by omega) hi hx hy

end

/-- Settles O47: substitution copies the entries, the filters keep them flat, and so does every mode. -/
theorem intraFlat : Obligations.IntraFlat := by
  intro g c k mode x y v _ _ hmode hx hy lo hi
  rw [intraRefs, substitute_replicate_some]
  exact ((flatRefs_replicate (2 ^ k) v).filteredRefs g c mode).predictedSample ⟨lo, hi⟩ hmode hx hy

/-! ### No neighbour (R103) -/

theorem references_eq_none {s : State} {n : BitVec 5} {c x y N : Nat}
    (unusable : ∀ o : Nat, o < 4 * N + 1 →
      refUsable (s.slot n) (x * (s.slot n).cfg.subW c) (y * (s.slot n).cfg.subH c)
        ((x + (refOffset N o).1) * (s.slot n).cfg.subW c) ((y + (refOffset N o).2) * (s.slot n).cfg.subH c) = false) :
    references s n c x y N = List.replicate (4 * N + 1) none := by
  refine List.eq_replicate_iff.mpr ⟨by simp [references], fun r hr => ?_⟩
  obtain ⟨o, ho, rfl⟩ := List.mem_map.mp hr
  exact if_neg (by rw [unusable o (List.mem_range.mp ho)]; exact Bool.false_ne_true)

/-- Settles O48: with no entry there, substitution makes the array flat at mid-grey, a value of the sample range. -/
theorem intraNoNeighbour : Obligations.IntraNoNeighbour := by
  rintro s n c k mode x y _ rfl ready valid block hmode unusable
  obtain ⟨depth, -⟩ := validCfg_bitDepth valid ready.2.2
  refine ⟨_, exec_intraPred_pass ready block hmode, intraDone_completed ready block hmode, fun i j hi hj => ?_⟩
  have grey : intraSample s n c k mode x y i j = 2 ^ ((s.slot n).cfg.bitDepth c.toNat - 1) := by
    rw [intraSample, intraRefs, references_eq_none unusable, substitute_replicate_none]
    exact ((flatRefs_replicate _ _).filteredRefs _ _ _).predictedSample
      ⟨(two_pow_pos_int _).le, pow_lt_pow_right₀ (by norm_num) (by omega)⟩ hmode hi hj
  rw [memSample_intraDone ready block hi hj, grey]
  exact congrArg some (BitVec.ofInt_natCast 16 (2 ^ ((s.slot n).cfg.bitDepth c.toNat - 1)))

end Sys2Proof.Machine

namespace Sys2Proof.Machine

/-! ## The reference checks of INTER_PRED (R158) -/

section
variable {s : State} {n r : BitVec 5} {md : MetaRec}

theorem checkRef_eq_ok_iff : checkRef s n r = .ok ↔ RefGood s n r := by
  unfold checkRef RefGood
  split_ifs <;> grind

theorem checkRef_eq_missing_iff : checkRef s n r = .missing ↔ RefMissing s n r := by
  unfold checkRef RefMissing
  split_ifs <;> grind

theorem checkRef_eq_bad_iff : checkRef s n r = .bad ↔ RefBad s n r := by
  unfold checkRef RefBad
  split_ifs <;> grind

/-- A list that passes, or is not used, raises nothing. -/
theorem listCheck_eq_ok {used : Bool} (good : used = true → RefGood s n r) :
    (if used then checkRef s n r else .ok) = .ok := by
  split_ifs with hu
  · exact checkRef_eq_ok_iff.mpr (good hu)
  · rfl

/-- Past list 0 the answer is that of list 1. -/
theorem checkRefs_of_good0 (good0 : md.predFlagL0 = true → RefGood s n md.refSlotL0) :
    checkRefs s n md = if md.predFlagL1 then checkRef s n md.refSlotL1 else .ok := by
  rw [checkRefs, listCheck_eq_ok good0]

theorem checkRefs_eq_ok (good0 : md.predFlagL0 = true → RefGood s n md.refSlotL0)
    (good1 : md.predFlagL1 = true → RefGood s n md.refSlotL1) : checkRefs s n md = .ok :=
  (checkRefs_of_good0 good0).trans (listCheck_eq_ok good1)

/-- The answer is that of the first list in use that fails. -/
theorem checkRefs_of_fails {v : RefCheck} (hv : v ≠ .ok)
    (fails : (md.predFlagL0 = true ∧ checkRef s n md.refSlotL0 = v) ∨
      (md.predFlagL1 = true ∧ (md.predFlagL0 = true → RefGood s n md.refSlotL0) ∧
        checkRef s n md.refSlotL1 = v)) : checkRefs s n md = v := by
  rcases fails with ⟨used, found⟩ | ⟨used, good0, found⟩
  · rw [checkRefs, if_pos used, found]
    cases v with
    | ok => exact absurd rfl hv
    | missing => rfl
    | bad => rfl
  · rw [checkRefs_of_good0 good0, if_pos used, found]

end

/-! ## A warning (R233) -/

theorem warn_warning_room {s : State} (w : WarningCode) (n : BitVec 5) (room : s.warn.length < s.params.warnDepth) :
    (warning w n s).warn = s.warn ++ [w.code] ∧ (warning w n s).warnOverflow = s.warnOverflow := by
  rw [warning_warn, if_neg (Nat.not_le.mpr room)]
  simp [warning, Nat.not_le.mpr room]

theorem warn_warning_full {s : State} (w : WarningCode) (n : BitVec 5) (full : s.params.warnDepth ≤ s.warn.length) :
    (warning w n s).warn = s.warn.tail ++ [w.code] ∧ (warning w n s).warnOverflow = true := by
  rw [warning_warn, if_pos full]
  simp [warning, full]

/-! ## INTER_PRED (R165) -/

section
variable {s : State} {n : BitVec 5} {c : BitVec 2} {k : Weights} {x y w h : BitVec 16} {md : MetaRec}

/-- What INTER_PRED does with a block of legal size and place that has a list in use, by what the check of its
references found (R158, R159). -/
def interPredChecked (s : State) (n : BitVec 5) (c : BitVec 2) (k : Weights) (x y w h : BitVec 16) :
    RefCheck → Except FaultCode State
  | .ok => .ok (writePrediction s n (s.slot n) ((s.slot n).metaAt x.toNat y.toNat) k c.toNat x.toNat y.toNat w.toNat
      h.toNat)
  | .missing => .ok (warning .nonexistingReferencePictureAccessed n s)
  | .bad => .error .codedParameterOutOfRange

/-- An INTER_PRED of a block of legal size and place warns without a list, and else goes by its references. -/
theorem interPredEffect_inPicture (hmd : md = (s.slot n).metaAt x.toNat y.toNat) (ready : PlaneReady s n c)
    (block : PbInPicture (s.slot n).cfg x.toNat y.toNat w.toNat h.toNat) :
    interPredEffect n c k x y w h s =
      if md.predFlagL0 = false ∧ md.predFlagL1 = false then .ok (warning .bothPredflagsZero n s)
      else interPredChecked s n c k x y w h (checkRefs s n md) := by
  subst hmd
  obtain ⟨hc, ⟨hn, hf⟩, hp⟩ := ready
  obtain ⟨hx, hy, hw, hh, placeX, placeY⟩ := block
  have aligned : ¬ (x.toNat % 4 ≠ 0 ∨ y.toNat % 4 ≠ 0 ∨ pbSizeOk w.toNat = false ∨ pbSizeOk h.toNat = false) := by
    simp [hx, hy, hw, hh]
  have place : ¬ ((s.slot n).cfg.picWidth < x.toNat + w.toNat ∨ (s.slot n).cfg.picHeight < y.toNat + h.toNat) := by
    omega
  rw [interPredEffect, withPlane_pass hc hn hf hp]
  dsimp only
  rw [if_neg aligned, if_neg place]
  cases checkRefs s n ((s.slot n).metaAt x.toNat y.toNat) <;> rfl

/-- With a list in use, INTER_PRED does what its references call for. -/
theorem interPredEffect_list (hmd : md = (s.slot n).metaAt x.toNat y.toNat) (ready : PlaneReady s n c)
    (block : PbInPicture (s.slot n).cfg x.toNat y.toNat w.toNat h.toNat)
    (list : md.predFlagL0 = true ∨ md.predFlagL1 = true) :
    interPredEffect n c k x y w h s = interPredChecked s n c k x y w h (checkRefs s n md) := by
  rw [interPredEffect_inPicture hmd ready block, if_neg (by rcases list with e | e <;> simp [e])]

/-- A list in use that fails R158 decides, if the list before it passes or is not used. -/
theorem interPredEffect_fails {v : RefCheck} (hmd : md = (s.slot n).metaAt x.toNat y.toNat)
    (ready : PlaneReady s n c) (block : PbInPicture (s.slot n).cfg x.toNat y.toNat w.toNat h.toNat) (hv : v ≠ .ok)
    (fails : (md.predFlagL0 = true ∧ checkRef s n md.refSlotL0 = v) ∨
      (md.predFlagL1 = true ∧ (md.predFlagL0 = true → RefGood s n md.refSlotL0) ∧ checkRef s n md.refSlotL1 = v)) :
    interPredEffect n c k x y w h s = interPredChecked s n c k x y w h v := by
  rw [interPredEffect_list hmd ready block (fails.imp And.left And.left), checkRefs_of_fails hv fails]

end

section
variable {s : State} {n : BitVec 5} {c : BitVec 2} {expl : Bool} {denom : BitVec 3}
  {x y w h wt0 of0 wt1 of1 : BitVec 16} {md : MetaRec}

/-- The state an INTER_PRED leaves when its checks pass. -/
def interDone (s : State) (n : BitVec 5) (c : BitVec 2) (expl : Bool) (denom : BitVec 3)
    (x y w h wt0 of0 wt1 of1 : BitVec 16) : State :=
  complete 5 (writePrediction s n (s.slot n) ((s.slot n).metaAt x.toNat y.toNat)
    ⟨expl, denom.toNat, wt0.toInt, of0.toInt, wt1.toInt, of1.toInt⟩ c.toNat x.toNat y.toNat w.toNat h.toNat)

/-- An INTER_PRED that has a list in use, and whose lists in use all pass R158, writes its block. -/
theorem exec_interPred_pass (hmd : md = (s.slot n).metaAt x.toNat y.toNat) (ready : PlaneReady s n c)
    (block : PbInPicture (s.slot n).cfg x.toNat y.toNat w.toNat h.toNat)
    (list : md.predFlagL0 = true ∨ md.predFlagL1 = true)
    (good0 : md.predFlagL0 = true → RefGood s n md.refSlotL0)
    (good1 : md.predFlagL1 = true → RefGood s n md.refSlotL1) :
    exec (.interPred n c expl denom x y w h wt0 of0 wt1 of1) s =
        .next (interDone s n c expl denom x y w h wt0 of0 wt1 of1) ∧
      Completed 5 s (interDone s n c expl denom x y w h wt0 of0 wt1 of1) := by
  have effect := interPredEffect_list (k := ⟨expl, denom.toNat, wt0.toInt, of0.toInt, wt1.toInt, of1.toInt⟩) hmd ready
    block list
  rw [checkRefs_eq_ok good0 good1] at effect
  exact ⟨congrArg (finish 5 s) effect, (interPredEffect_ok effect).completed 5⟩

/-- Each sample of the component block holds the weighted prediction. -/
theorem memSample_interDone (hmd : md = (s.slot n).metaAt x.toNat y.toNat) (ready : PlaneReady s n c)
    (block : PbInPicture (s.slot n).cfg x.toNat y.toNat w.toNat h.toNat) {i j : Nat}
    (hi : i < w.toNat / (s.slot n).cfg.subW c.toNat) (hj : j < h.toNat / (s.slot n).cfg.subH c.toNat) :
    memSample? (interDone s n c expl denom x y w h wt0 of0 wt1 of1).mem
        (sampleAddr n .recon c.toNat (x.toNat / (s.slot n).cfg.subW c.toNat + i)
          (y.toNat / (s.slot n).cfg.subH c.toNat + j)) =
      some (BitVec.ofInt 16 (interSample s (s.slot n).cfg md
        ⟨expl, denom.toNat, wt0.toInt, of0.toInt, wt1.toInt, of1.toInt⟩ c.toNat
        (x.toNat / (s.slot n).cfg.subW c.toNat) (y.toNat / (s.slot n).cfg.subH c.toNat) i j)) := by
  subst hmd
  obtain ⟨-, -, -, -, placeX, placeY⟩ := block
  exact memSample_blockWrites s.mem (Nat.lt_succ_of_lt (planeExists_lt ready.2.2))
    (fun i hi => componentBlock_coordinate (bits (s.slot n).cfg.picWidthReg 0 16).isLt placeX hi)
    (fun j hj => componentBlock_coordinate (bits (s.slot n).cfg.picHeightReg 0 16).isLt placeY hj) hi hj

theorem slot_interDone_same : (interDone s n c expl denom x y w h wt0 of0 wt1 of1).slot n = { s.slot n with
    integrity := propagated (s.slot n).integrity (usesDegraded s ((s.slot n).metaAt x.toNat y.toNat)) } := by
  simp [interDone, writePrediction]

theorem slot_interDone_other {m : BitVec 5} (hm : m ≠ n) :
    (interDone s n c expl denom x y w h wt0 of0 wt1 of1).slot m = s.slot m :=
  slot_setSlot_other (s.setSamples _) _ hm

/-- An INTER_PRED whose effect is a warning queues it and writes no sample (R159). -/
theorem exec_interPred_warns {code : WarningCode}
    (effect : interPredEffect n c ⟨expl, denom.toNat, wt0.toInt, of0.toInt, wt1.toInt, of1.toInt⟩ x y w h s =
      .ok (warning code n s)) :
    ∃ t, exec (.interPred n c expl denom x y w h wt0 of0 wt1 of1) s = .next t ∧ Completed 5 s t ∧ KeepsCoef s t ∧
      KeepsOtherSlots n s t ∧ KeepsMemory s t ∧ t.slot n = { s.slot n with integrity := .decodingErrors } ∧
      (s.warn.length < s.params.warnDepth → t.warn = s.warn ++ [code.code] ∧ t.warnOverflow = s.warnOverflow) ∧
      (s.params.warnDepth ≤ s.warn.length → t.warn = s.warn.tail ++ [code.code] ∧ t.warnOverflow = true) :=
  ⟨complete 5 (warning code n s), congrArg (finish 5 s) effect, (interPredEffect_ok effect).completed 5,
    by simp [KeepsCoef], fun _ hm => slot_warning_other s code hm, fun _ => rfl, slot_warning_same s code n,
    warn_warning_room code n, warn_warning_full code n⟩

end

/-- Settles O37: the checks pass, and the block and the integrity are those of `writePrediction`. -/
theorem interPredResult : Obligations.InterPredResult := by
  rintro s n c expl denom x y w h wt0 of0 wt1 of1 _ md rfl hmd ready block list good0 good1
  obtain ⟨runs, completed⟩ := exec_interPred_pass hmd ready block list good0 good1
  refine ⟨_, runs, completed, ?_, fun _ => slot_interDone_other, ⟨rfl, rfl⟩,
    fun _ ha => memByte_blockWrites_other s.mem ha, ?_, ?_, fun i j => memSample_interDone hmd ready block⟩
  · simp [KeepsCoef, interDone, writePrediction]
  · rw [slot_interDone_same]
  · rw [slot_interDone_same, ← hmd]
    exact if_congr (and_congr_left' (usesDegraded_iff s md)) rfl rfl

/-- Settles O50: without a list by `interPredEffect_inPicture`, with a list that fails R158 by what it names. -/
theorem interWarns : Obligations.InterWarns := by
  intro s n c expl denom x y w h wt0 of0 wt1 of1 md hmd ready block
  refine ⟨fun code cause => ?_, fun fails => ?_⟩
  · rcases cause with ⟨unused0, unused1, rfl⟩ | ⟨used, ref, rfl⟩ | ⟨used, good0, ref, rfl⟩
    · exact exec_interPred_warns (code := .bothPredflagsZero)
        ((interPredEffect_inPicture hmd ready block).trans (if_pos ⟨unused0, unused1⟩))
    · exact exec_interPred_warns (interPredEffect_fails hmd ready block (v := .missing) RefCheck.noConfusion
        (.inl ⟨used, checkRef_eq_missing_iff.mpr ref⟩))
    · exact exec_interPred_warns (interPredEffect_fails hmd ready block (v := .missing) RefCheck.noConfusion
        (.inr ⟨used, good0, checkRef_eq_missing_iff.mpr ref⟩))
  · simp only [← checkRef_eq_bad_iff] at fails
    exact ⟨_, congrArg (finish 5 s) (interPredEffect_fails hmd ready block RefCheck.noConfusion fails),
      faulted_raise _ s, by simp [KeepsCoef]⟩

/-! ## Zero motion (R161)

Without a fraction the interpolation is a shift up (R149), and default weighting of one list shifts the value back
(R153), so the prediction is the reference sample. -/

theorem sameFormat_planes {a b : CfgRegs} (h : sameFormat a b = true) (c : Nat) :
    a.planeW c = b.planeW c ∧ a.planeH c = b.planeH c ∧ a.bitDepth c = b.bitDepth c := by
  simp only [sameFormat, Bool.and_eq_true, beq_iff_eq] at h
  obtain ⟨⟨⟨⟨width, height⟩, format⟩, depthY⟩, depthC⟩ := h
  simp only [CfgRegs.planeW, CfgRegs.planeH, CfgRegs.bitDepth, CfgRegs.subW, CfgRegs.subH, CfgRegs.subWidthC,
    CfgRegs.subHeightC, width, height, format, depthY, depthC, and_self]

/-- The rounded shift down of R153 undoes the shift up of R149. -/
theorem shr_shl_interShift3 {bd : Nat} (hi : bd ≤ 12) (p : Int) :
    shr (shl p (interShift3 bd) + 2 ^ (13 - bd)) (14 - bd) = p := by
  have shift : interShift3 bd = 14 - bd := by unfold interShift3; omega
  have half : (2 : Int) ^ (13 - bd) < 2 ^ (14 - bd) := pow_lt_pow_right₀ (by norm_num) (by omega)
  rw [shr_eq_div, shl, shift, Int.add_comm, Int.add_mul_ediv_right _ _ (two_pow_pos_int _).ne',
    Int.ediv_eq_zero_of_lt (two_pow_pos_int _).le half, Int.zero_add]

/-- Default weighting of one list gives back a sample that was only shifted up. -/
theorem weightUni_default {k : Weights} {bd : Nat} {v : Int} (w o : Int) (unweighted : k.expl = false) (hi : bd ≤ 12)
    (hv : InRange bd v) : weightUni k bd w o (shl v (interShift3 bd)) = v := by
  rw [weightUni, unweighted, if_neg Bool.false_ne_true, show 14 - bd - 1 = 13 - bd by omega, shr_shl_interShift3 hi,
    clip1_of_inRange hv]

/-- Inside the plane no coordinate is clamped. -/
theorem refSample_inside {s : State} {r : BitVec 5} {c x y : Nat} (use : Nat) (hx : x < (s.slot r).cfg.planeW c)
    (hy : y < (s.slot r).cfg.planeH c) : refSample s r c use x y = s.sample r .out c x y use := by
  rw [refSample, clip3_of_bounds (by omega) (by omega), clip3_of_bounds (by omega) (by omega), Int.toNat_natCast,
    Int.toNat_natCast]

/-- With vector (0, 0) the intermediate sample is the reference sample at the same place, shifted up. -/
theorem predSampleLX_zero (s : State) (g : CfgRegs) (r : BitVec 5) (c x0 y0 use x y : Nat) :
    predSampleLX s g r ⟨0, 0⟩ c x0 y0 use x y =
      shl (refSample s r c use (x0 + x : Nat) (y0 + y : Nat)) (interShift3 (g.bitDepth c)) := by
  have int (k : Nat) : shr 0 k = 0 := by simp [shr_eq_div]
  have frac (k : Nat) : lowBits 0 k = 0 := by simp [lowBits]
  unfold predSampleLX
  split_ifs <;> simp [interpolate, int, frac]

/-- The block uses one list alone, with vector (0, 0) and reference slot `r`. -/
def ZeroMotionFrom (md : MetaRec) (r : BitVec 5) : Prop :=
  (md.predFlagL0 = true ∧ md.predFlagL1 = false ∧ md.mvL0 = ⟨0, 0⟩ ∧ r = md.refSlotL0) ∨
    (md.predFlagL0 = false ∧ md.predFlagL1 = true ∧ md.mvL1 = ⟨0, 0⟩ ∧ r = md.refSlotL1)

theorem ZeroMotionFrom.list {md : MetaRec} {r : BitVec 5} (h : ZeroMotionFrom md r) :
    md.predFlagL0 = true ∨ md.predFlagL1 = true := by
  rcases h with ⟨used, -⟩ | ⟨-, used, -⟩
  · exact .inl used
  · exact .inr used

theorem ZeroMotionFrom.good {s : State} {n r : BitVec 5} {md : MetaRec} (h : ZeroMotionFrom md r)
    (good : RefGood s n r) : (md.predFlagL0 = true → RefGood s n md.refSlotL0) ∧
      (md.predFlagL1 = true → RefGood s n md.refSlotL1) := by
  rcases h with ⟨-, unused, -, rfl⟩ | ⟨unused, -, -, rfl⟩
  · exact ⟨fun _ => good, by simp [unused]⟩
  · exact ⟨by simp [unused], fun _ => good⟩

/-- The predicted sample is the reference sample at the same place, as one of the command's reads finds it. -/
theorem interSample_zeroMotion {s : State} {g : CfgRegs} {md : MetaRec} {k : Weights} {r : BitVec 5}
    {c x0 y0 x y : Nat} (zero : ZeroMotionFrom md r) (unweighted : k.expl = false) (hi : g.bitDepth c ≤ 12)
    (depth : (s.slot r).cfg.bitDepth c = g.bitDepth c) (hx : x0 + x < (s.slot r).cfg.planeW c)
    (hy : y0 + y < (s.slot r).cfg.planeH c) :
    ∃ use, interSample s g md k c x0 y0 x y = s.sample r .out c (x0 + x) (y0 + y) use := by
  have back (w o : Int) (use : Nat) : weightUni k (g.bitDepth c) w o (predSampleLX s g r ⟨0, 0⟩ c x0 y0 use x y) =
      s.sample r .out c (x0 + x) (y0 + y) use := by
    rw [predSampleLX_zero, refSample_inside use hx hy]
    exact weightUni_default w o unweighted hi (depth ▸ InRange.sample s r .out c _ _ use)
  rcases zero with ⟨used, unused, still, rfl⟩ | ⟨unused, used, still, rfl⟩
  · exact ⟨_, by simpa only [interSample, weightedSample, used, unused, still, Bool.and_false, Bool.false_eq_true,
      if_false, if_true] using back k.w0 k.o0 _⟩
  · exact ⟨_, by simpa only [interSample, weightedSample, used, unused, still, Bool.false_and, Bool.false_eq_true,
      if_false] using back k.w1 k.o1 _⟩

/-- The component block of a prediction block in the picture lies in its plane. -/
theorem componentBlock_inside {x w d i m : Nat} (hx : x % 4 = 0) (hd : d = 1 ∨ d = 2) (place : x + w ≤ m)
    (hi : i < w / d) : x / d + i < m / d := by
  rcases hd with rfl | rfl <;> omega

/-- Settles O51: the block is predicted, each of its samples by `interSample_zeroMotion`. -/
theorem interZeroMotion : Obligations.InterZeroMotion := by
  rintro s n r c denom x y w h wt0 of0 wt1 of1 _ md rfl hmd ready valid block (zero : ZeroMotionFrom md r) good
  refine ⟨fun bd p _ hi => shr_shl_interShift3 hi p, ?_⟩
  obtain ⟨good0, good1⟩ := zero.good good
  obtain ⟨runs, completed⟩ := exec_interPred_pass hmd ready block zero.list good0 good1
  refine ⟨_, runs, completed, ?_⟩
  rintro i j _ _ v hi hj rfl rfl stored
  obtain ⟨planeW, planeH, depth⟩ := sameFormat_planes good.2.2.2 c.toNat
  have ⟨alignedX, alignedY, _, _, placeX, placeY⟩ := block
  obtain ⟨use, predicted⟩ := interSample_zeroMotion (k := ⟨false, denom.toNat, wt0.toInt, of0.toInt, wt1.toInt,
      of1.toInt⟩) zero rfl (validCfg_bitDepth valid ready.2.2).2 depth
    ((componentBlock_inside alignedX (subW_cases _ _) placeX hi).trans_eq planeW.symm)
    ((componentBlock_inside alignedY (subH_cases _ _) placeY hj).trans_eq planeH.symm)
  rw [memSample_interDone hmd ready block hi hj, predicted, sample_of_stored stored, depth, BitVec.ofInt_natCast]

end Sys2Proof.Machine

namespace Sys2Proof.Machine

/-! ## The metadata of a rectangle (R33) -/

section
variable {sl : Slot} {x y w h bx bz : Nat}

/-- A luma rectangle of whole 4 by 4 blocks, with columns a block key tells apart. -/
structure BlockRect (x y w h : Nat) : Prop where
  left : x % 4 = 0
  top : y % 4 = 0
  width : w % 4 = 0
  height : h % 4 = 0
  room : x + w ≤ 65536

/-- An idempotent change of a rectangle reaches the records of its blocks and no other. -/
theorem metaAt_modifyBlocks (rect : BlockRect x y w h) {f : MetaRec → MetaRec} (hf : ∀ m, f (f m) = f m)
    (hbx : bx < 65536) : (sl.modifyBlocks x y w h f).metaAt bx bz =
      if x ≤ bx ∧ bx < x + w ∧ y ≤ bz ∧ bz < y + h then f (sl.metaAt bx bz) else sl.metaAt bx bz := by
  have keys := mem_blockKeys (by' := bz) rect.left rect.top rect.width rect.height hbx rect.room
  split_ifs with inside
  · exact tableGet_modify_of_mem _ _ f hf (keys.mpr inside)
  · exact tableGet_modify_of_not_mem _ _ f (mt keys.mp inside)

theorem BlockRect.column (rect : BlockRect x y w h) (hw : 4 ≤ w) : BlockRect x y 4 h :=
  { rect with width := rfl, room := (Nat.add_le_add_left hw x).trans rect.room }

theorem BlockRect.row (rect : BlockRect x y w h) : BlockRect x y w 4 := { rect with height := rfl }

/-- The left column of blocks, then the top row, then the whole rectangle: where each of the three changes of a mark
reaches. -/
theorem metaAt_marked (rect : BlockRect x y w h) (hw : 4 ≤ w) (hh : 4 ≤ h) {left top whole : MetaRec → MetaRec}
    (hleft : ∀ m, left (left m) = left m) (htop : ∀ m, top (top m) = top m) (hwhole : ∀ m, whole (whole m) = whole m)
    (hbx : bx < 65536) :
    (((sl.modifyBlocks x y 4 h left).modifyBlocks x y w 4 top).modifyBlocks x y w h whole).metaAt bx bz =
      if x ≤ bx ∧ bx < x + w ∧ y ≤ bz ∧ bz < y + h then
        whole ((if bz < y + 4 then top else id) ((if bx < x + 4 then left else id) (sl.metaAt bx bz)))
      else sl.metaAt bx bz := by
  rw [metaAt_modifyBlocks rect hwhole hbx, metaAt_modifyBlocks rect.row htop hbx,
    metaAt_modifyBlocks (rect.column hw) hleft hbx]
  by_cases inside : x ≤ bx ∧ bx < x + w ∧ y ≤ bz ∧ bz < y + h
  · have column : (x ≤ bx ∧ bx < x + 4 ∧ y ≤ bz ∧ bz < y + h) ↔ bx < x + 4 := by omega
    have row : (x ≤ bx ∧ bx < x + w ∧ y ≤ bz ∧ bz < y + 4) ↔ bz < y + 4 := by omega
    rw [if_pos inside, if_pos inside, if_congr row rfl rfl, if_congr column rfl rfl]
    split_ifs <;> rfl
  · have column : ¬ (x ≤ bx ∧ bx < x + 4 ∧ y ≤ bz ∧ bz < y + h) := by omega
    have row : ¬ (x ≤ bx ∧ bx < x + w ∧ y ≤ bz ∧ bz < y + 4) := by omega
    rw [if_neg inside, if_neg row, if_neg column, if_neg inside]

end

/-! ## MARK_TB (R168) -/

/-- What MARK_TB makes of the record at (bx, bz) of its block. -/
theorem metaAt_markedTb {sl : Slot} {x y T bx bz : Nat} (rect : BlockRect x y T T) (hT : 4 ≤ T) (nz : Bool)
    (hbx : bx < 65536) : (sl.markedTb x y T nz).metaAt bx bz =
      if x ≤ bx ∧ bx < x + T ∧ y ≤ bz ∧ bz < y + T then
        { sl.metaAt bx bz with
          nz := nz
          tbEdgeV := (sl.metaAt bx bz).tbEdgeV || decide (bx < x + 4)
          tbEdgeH := (sl.metaAt bx bz).tbEdgeH || decide (bz < y + 4) }
      else sl.metaAt bx bz := by
  rw [Slot.markedTb, metaAt_marked rect hT hT (left := MetaRec.withTbEdgeV) (top := MetaRec.withTbEdgeH)
    (whole := fun m => m.withNz nz) (fun _ => rfl) (fun _ => rfl) (fun _ => rfl) hbx]
  by_cases column : bx < x + 4 <;> by_cases row : bz < y + 4 <;>
    simp [column, row, MetaRec.withNz, MetaRec.withTbEdgeV, MetaRec.withTbEdgeH]

/-- A transform block of legal size and place is a rectangle of blocks. -/
theorem blockRect_of_aligned {k x y m : Nat} (hk : 2 ≤ k) (hx : x % 2 ^ k = 0) (hy : y % 2 ^ k = 0) (hm : m < 65536)
    (place : x + 2 ^ k ≤ m) : BlockRect x y (2 ^ k) (2 ^ k) ∧ 4 ≤ 2 ^ k := by
  have four : 4 ∣ 2 ^ k := pow_dvd_pow 2 hk
  have mult {a : Nat} (ha : a % 2 ^ k = 0) : a % 4 = 0 :=
    Nat.mod_eq_zero_of_dvd (four.trans (Nat.dvd_of_mod_eq_zero ha))
  exact ⟨⟨mult hx, mult hy, mult (Nat.mod_self _), mult (Nat.mod_self _), by omega⟩, Nat.le_of_dvd (by positivity) four⟩

/-- Settles O28: the checks pass, and the records are those of `metaAt_markedTb`. -/
theorem markTbResult : Obligations.MarkTbResult := by
  intro s n k nz x y flight hk2 hk5 hx hy hw hh
  have range : ¬ (k.toNat < 2 ∨ 5 < k.toNat ∨ x.toNat % 2 ^ k.toNat ≠ 0 ∨ y.toNat % 2 ^ k.toNat ≠ 0) := by omega
  have place : ¬ ((s.slot n).cfg.picWidth < x.toNat + 2 ^ k.toNat ∨
      (s.slot n).cfg.picHeight < y.toNat + 2 ^ k.toNat) := by omega
  have effect : markTbEffect n k nz x y s =
      .ok (s.setSlot n ((s.slot n).markedTb x.toNat y.toNat (2 ^ k.toNat) nz)) := by
    rw [markTbEffect, withInFlight_pass flight.1 flight.2]
    dsimp only
    rw [if_neg range, if_neg place]
  obtain ⟨rect, size⟩ := blockRect_of_aligned hk2 hx hy (bits (s.slot n).cfg.picWidthReg 0 16).isLt hw
  refine ⟨_, congrArg (finish 2 s) effect, (markTbEffect_ok effect).changesSlot 2, ?_, fun bx bz hbx _ => ?_⟩
  · rw [slot_complete, slot_setSlot_same]
    rfl
  · rw [slot_complete, slot_setSlot_same, metaAt_markedTb rect size nz hbx]

/-! ## MARK_PB (R169) -/

/-- What MARK_PB makes of the record at (bx, bz) of its block. -/
theorem metaAt_markedPb {sl : Slot} {x y w h bx bz : Nat} (rect : BlockRect x y w h) (hw : 4 ≤ w) (hh : 4 ≤ h)
    (pf0 pf1 : Bool) (ref0 ref1 : BitVec 5) (mv0 mv1 : Mv) (hbx : bx < 65536) :
    (sl.markedPb x y w h pf0 pf1 ref0 ref1 mv0 mv1).metaAt bx bz =
      if x ≤ bx ∧ bx < x + w ∧ y ≤ bz ∧ bz < y + h then
        { sl.metaAt bx bz with
          predFlagL0 := pf0
          predFlagL1 := pf1
          refSlotL0 := if pf0 then ref0 else 0
          refSlotL1 := if pf1 then ref1 else 0
          mvL0 := if pf0 then mv0 else ⟨0, 0⟩
          mvL1 := if pf1 then mv1 else ⟨0, 0⟩
          pbEdgeV := (sl.metaAt bx bz).pbEdgeV || decide (bx < x + 4)
          pbEdgeH := (sl.metaAt bx bz).pbEdgeH || decide (bz < y + 4) }
      else sl.metaAt bx bz := by
  rw [Slot.markedPb, metaAt_marked rect hw hh (left := MetaRec.withPbEdgeV) (top := MetaRec.withPbEdgeH)
    (whole := fun m => m.withMotion pf0 pf1 ref0 ref1 mv0 mv1) (fun _ => rfl) (fun _ => rfl) (fun _ => rfl) hbx]
  by_cases column : bx < x + 4 <;> by_cases row : bz < y + 4 <;>
    simp [column, row, MetaRec.withMotion, MetaRec.withPbEdgeV, MetaRec.withPbEdgeH, Mv.zero]

theorem pbSizeOk_iff {m : Nat} : pbSizeOk m = true ↔ m % 4 = 0 ∧ 4 ≤ m ∧ m ≤ 64 := decide_eq_true_iff

/-- Settles O29: the checks pass, and the records are those of `metaAt_markedPb`. -/
theorem markPbResult : Obligations.MarkPbResult := by
  intro s n pf0 pf1 ref0 ref1 x y w h mv0x mv0y mv1x mv1y flight block href0 href1
  obtain ⟨hx, hy, hw, hh, placeX, placeY⟩ := block
  have aligned : ¬ (x.toNat % 4 ≠ 0 ∨ y.toNat % 4 ≠ 0 ∨ pbSizeOk w.toNat = false ∨ pbSizeOk h.toNat = false) := by
    simp [hx, hy, hw, hh]
  have refs : ¬ (s.params.numSlots ≤ ref0.toNat ∨ s.params.numSlots ≤ ref1.toNat) := by omega
  have place : ¬ ((s.slot n).cfg.picWidth < x.toNat + w.toNat ∨ (s.slot n).cfg.picHeight < y.toNat + h.toNat) := by
    omega
  have effect : markPbEffect n pf0 pf1 ref0 ref1 x y w h ⟨mv0x, mv0y⟩ ⟨mv1x, mv1y⟩ s =
      .ok (s.setSlot n ((s.slot n).markedPb x.toNat y.toNat w.toNat h.toNat pf0 pf1 ref0 ref1 ⟨mv0x, mv0y⟩
        ⟨mv1x, mv1y⟩)) := by
    rw [markPbEffect, withInFlight_pass flight.1 flight.2, if_neg aligned, if_neg refs, if_neg place]
  obtain ⟨hw4, hw, -⟩ := pbSizeOk_iff.mp hw
  obtain ⟨hh4, hh, -⟩ := pbSizeOk_iff.mp hh
  have width : (s.slot n).cfg.picWidth < 65536 := (bits (s.slot n).cfg.picWidthReg 0 16).isLt
  have rect : BlockRect x.toNat y.toNat w.toNat h.toNat := ⟨hx, hy, hw4, hh4, by omega⟩
  refine ⟨_, congrArg (finish 5 s) effect, (markPbEffect_ok effect).changesSlot 5, ?_, fun bx bz hbx _ => ?_⟩
  · rw [slot_complete, slot_setSlot_same]
    rfl
  · rw [slot_complete, slot_setSlot_same, metaAt_markedPb rect hw hh pf0 pf1 ref0 ref1 _ _ hbx]

end Sys2Proof.Machine

namespace Sys2Proof.Machine

/-! ## The segments of a CTB (R170, R182, R186) -/

/-- The segment at component position (x, y) of plane `c` stands on the grid of its direction, with its Q side in CTB
(rx, ry) and in the plane: `SegmentOfCtb` with its parts named, for any two numbers. -/
structure SegmentPlace (g : CfgRegs) (dir : Bool) (c x y rx ry : Nat) : Prop where
  gridX : x % (if dir then 4 else 8) = 0
  gridY : y % (if dir then 8 else 4) = 0
  inX : x < g.planeW c
  inY : y < g.planeH c
  ctbX : x * g.subW c / g.ctbSize = rx
  ctbY : y * g.subH c / g.ctbSize = ry

theorem segmentOfCtb_iff {g : CfgRegs} {dir : Bool} {c x y : Nat} {rx ry : BitVec 16} :
    SegmentOfCtb g dir c x y rx ry ↔ SegmentPlace g dir c x y rx.toNat ry.toNat :=
  ⟨fun ⟨gridX, gridY, inX, inY, ctbX, ctbY⟩ => ⟨gridX, gridY, inX, inY, ctbX, ctbY⟩,
    fun h => ⟨h.gridX, h.gridY, h.inX, h.inY, h.ctbX, h.ctbY⟩⟩

/-- The sizes R213 allows: pictures in units of 8 luma samples, CTBs in units of 16. -/
theorem validCfg_sizes {p : Params} {g : CfgRegs} (h : validCfg p g = none) :
    8 ∣ g.picWidth ∧ 8 ∣ g.picHeight ∧ 16 ∣ g.ctbSize := by
  have inRange : g.inRange = true := by
    unfold validCfg at h
    split_ifs at h with h1
    simpa using h1
  simp only [CfgRegs.inRange, Bool.and_eq_true, dimensionOk, decide_eq_true_eq] at inRange
  obtain ⟨⟨⟨⟨⟨⟨⟨⟨⟨-, width, -⟩, height, -⟩, -⟩, -⟩, log2, -⟩, -⟩, -⟩, -⟩, -⟩ := inRange
  exact ⟨Nat.dvd_of_mod_eq_zero width, Nat.dvd_of_mod_eq_zero height, pow_dvd_pow 2 log2⟩

theorem ctbSize_pos (g : CfgRegs) : 0 < g.ctbSize := Nat.two_pow_pos _

/-- Along one axis: the grid places of CTB `r`, `size / sub` component samples wide. -/
theorem gridPlace_iff {size sub step r x : Nat} (hsize : 0 < size) (whole : sub * step ∣ size) :
    (∃ i < size / sub / step, x = r * (size / sub) + step * i) ↔ x % step = 0 ∧ x * sub / size = r := by
  obtain ⟨m, rfl⟩ := whole
  have hsub : 0 < sub := Nat.pos_of_mul_pos_right (Nat.pos_of_mul_pos_right hsize)
  have hstep : 0 < step := Nat.pos_of_mul_pos_left (Nat.pos_of_mul_pos_right hsize)
  have width : sub * step * m / sub = step * m := by rw [mul_assoc, Nat.mul_div_cancel_left _ hsub]
  have scaled : x * sub / (sub * step * m) = x / step / m := by
    rw [mul_comm x, mul_assoc, Nat.mul_div_mul_left _ _ hsub, Nat.div_div_eq_div_mul]
  rw [width, scaled, Nat.mul_div_cancel_left _ hstep]
  constructor
  · rintro ⟨i, hi, rfl⟩
    have factored : r * (step * m) + step * i = step * (i + m * r) := by ring
    rw [factored, Nat.mul_mod_right, Nat.mul_div_cancel_left _ hstep,
      Nat.add_mul_div_left _ _ (Nat.zero_lt_of_lt hi), Nat.div_eq_of_lt hi, Nat.zero_add]
    exact ⟨rfl, rfl⟩
  · rintro ⟨grid, rfl⟩
    obtain ⟨z, rfl⟩ := Nat.dvd_of_mod_eq_zero grid
    rw [Nat.mul_div_cancel_left _ hstep]
    have hm : 0 < m := Nat.pos_of_mul_pos_left hsize
    refine ⟨z % m, Nat.mod_lt _ hm, ?_⟩
    calc step * z = step * (m * (z / m) + z % m) := by rw [Nat.div_add_mod]
      _ = z / m * (step * m) + step * (z % m) := by ring

section
variable {g : CfgRegs} {dir : Bool} {c rx ry : Nat}

theorem grid_dvd_ctbSize (units : 16 ∣ g.ctbSize) {sub step : Nat} (hsub : sub = 1 ∨ sub = 2) (hstep : step ∣ 8) :
    sub * step ∣ g.ctbSize := by
  have hsub' : sub ∣ 2 := by rcases hsub with rfl | rfl <;> decide
  exact (mul_dvd_mul hsub' hstep).trans units

theorem mem_ctbSegments (units : 16 ∣ g.ctbSize) {x y : Nat} :
    (x, y) ∈ ctbSegments g dir c rx ry ↔ SegmentPlace g dir c x y rx ry := by
  have stepX : g.subW c * (if dir then 4 else 8) ∣ g.ctbSize :=
    grid_dvd_ctbSize units (subW_cases g c) (by cases dir <;> decide)
  have stepY : g.subH c * (if dir then 8 else 4) ∣ g.ctbSize :=
    grid_dvd_ctbSize units (subH_cases g c) (by cases dir <;> decide)
  have placeX := gridPlace_iff (r := rx) (x := x) (ctbSize_pos g) stepX
  have placeY := gridPlace_iff (r := ry) (x := y) (ctbSize_pos g) stepY
  simp only [ctbSegments, List.mem_filter, List.mem_flatMap, List.mem_map, List.mem_range, decide_eq_true_eq,
    Prod.mk.injEq]
  constructor
  · rintro ⟨⟨j, hj, i, hi, ex, ey⟩, inX, inY⟩
    obtain ⟨gridX, ctbX⟩ := placeX.mp ⟨i, hi, ex.symm⟩
    obtain ⟨gridY, ctbY⟩ := placeY.mp ⟨j, hj, ey.symm⟩
    exact ⟨gridX, gridY, inX, inY, ctbX, ctbY⟩
  · rintro ⟨gridX, gridY, inX, inY, ctbX, ctbY⟩
    obtain ⟨i, hi, ex⟩ := placeX.mpr ⟨gridX, ctbX⟩
    obtain ⟨j, hj, ey⟩ := placeY.mpr ⟨gridY, ctbY⟩
    exact ⟨⟨j, hj, i, hi, ex.symm, ey.symm⟩, inX, inY⟩

theorem ctbSegments_nodup (g : CfgRegs) (dir : Bool) (c rx ry : Nat) : (ctbSegments g dir c rx ry).Nodup := by
  have grid (m k a b p q : Nat) (hp : 0 < p) (hq : 0 < q) :
      ((List.range m).flatMap fun j => (List.range k).map fun i => (a + p * i, b + q * j)).Nodup := by
    have pairs : ((List.range m).flatMap fun j => (List.range k).map fun i => (a + p * i, b + q * j)) =
        ((List.range m).product (List.range k)).map fun e => (a + p * e.2, b + q * e.1) := by
      simp [List.product, List.map_flatMap, Function.comp_def]
    rw [pairs]
    refine (List.nodup_range.product List.nodup_range).map fun e e' h => ?_
    obtain ⟨h2, h1⟩ := Prod.mk.inj h
    exact Prod.ext (Nat.eq_of_mul_eq_mul_left hq (Nat.add_left_cancel h1))
      (Nat.eq_of_mul_eq_mul_left hp (Nat.add_left_cancel h2))
  exact (grid _ _ _ _ _ _ (by cases dir <;> decide) (by cases dir <;> decide)).filter _

theorem mem_planes_iff {c : Nat} : c ∈ g.planes ↔ g.planeExists c = true := by
  refine ⟨planeExists_of_mem_planes, fun h => ?_⟩
  simp only [CfgRegs.planeExists, decide_eq_true_eq] at h
  unfold CfgRegs.planes
  split_ifs
  · simp; omega
  · simp; omega

theorem planes_nodup (g : CfgRegs) : g.planes.Nodup := by
  unfold CfgRegs.planes
  split_ifs <;> decide

/-- Where the four component samples from a grid place on lie along one axis: in the plane and in CTB `r`. -/
theorem gridPlace_room {size sub pic r x : Nat} (hsub : sub = 1 ∨ sub = 2) (units : 16 ∣ size) (hsize : 0 < size)
    (hpic : 8 ∣ pic) (grid : 4 ∣ x) (inside : x < pic / sub) (ctb : x * sub / size = r) :
    x + 4 ≤ pic / sub ∧ r * size / sub ≤ x ∧ x + 4 ≤ (r + 1) * size / sub := by
  have first : r * size ≤ x * sub := ctb ▸ Nat.div_mul_le_self _ _
  have last : x * sub < (r + 1) * size := by
    rw [mul_comm (r + 1)]
    exact ctb ▸ Nat.lt_mul_div_succ _ hsize
  have wholeR : 16 ∣ r * size := units.mul_left r
  have wholeR' : 16 ∣ (r + 1) * size := units.mul_left (r + 1)
  generalize r * size = a at *
  generalize (r + 1) * size = b at *
  rcases hsub with rfl | rfl <;> omega

end

/-! ## The samples at an edge (R177)

A filter reads and changes samples at distances `d` from -4 to 3. Edges are 8 samples apart, so the segment, the line
and the distance can be told from the address. -/

/-- A sample at most four from an edge of the grid of its direction, on a segment's line. -/
structure AtEdge (dir : Bool) (c x y k : Nat) (d : Int) : Prop where
  plane : c < 4
  gridX : x % (if dir then 4 else 8) = 0
  gridY : y % (if dir then 8 else 4) = 0
  boundX : x < 65536
  boundY : y < 65536
  line : k < 4
  near : -4 ≤ d ∧ d < 4
  inside : 0 ≤ (if dir then y else x : Nat) + d

theorem edgeAddr_inj {n : BitVec 5} {dir : Bool} {c x y k c' x' y' k' : Nat} {d d' : Int}
    (h : AtEdge dir c x y k d) (h' : AtEdge dir c' x' y' k' d')
    (same : edgeAddr n dir c x y k d = edgeAddr n dir c' x' y' k' d') :
    c = c' ∧ x = x' ∧ y = y' ∧ k = k' ∧ d = d' := by
  obtain ⟨hc, gx, gy, bx, bz, hk, ⟨lo, hi⟩, hin⟩ := h
  obtain ⟨hc', gx', gy', bx', bz', hk', ⟨lo', hi'⟩, hin'⟩ := h'
  cases dir <;> simp only [Bool.false_eq_true, if_false, if_true, edgeAddr] at *
  all_goals
    obtain ⟨-, -, ec, ex, ey⟩ := sampleAddr_inj hc hc' (by omega) (by omega) (by omega) (by omega) same
    omega

section
variable {n : BitVec 5} {dir : Bool} {c x y k : Nat}

theorem pAddr_eq (n : BitVec 5) (dir : Bool) (c x y k i : Nat) :
    pAddr n dir c x y k i = edgeAddr n dir c x y k (-1 - i) := by
  have back (a : Nat) : ((a : Int) + (-1 - i)).toNat = a - 1 - i := by omega
  simp only [pAddr, edgeAddr, back]

theorem qAddr_eq (n : BitVec 5) (dir : Bool) (c x y k i : Nat) :
    qAddr n dir c x y k i = edgeAddr n dir c x y k i := by
  have ahead (a : Nat) : ((a : Int) + i).toNat = a + i := by omega
  simp only [qAddr, edgeAddr, ahead]

end

/-! ## The result of a line by distance -/

/-- What the filter of a line puts at distance `d`; `none` where it leaves the sample. -/
def LineResult.valueAt? (r : LineResult) (d : Int) : Option Int :=
  if d < 0 then r.ps[(-1 - d).toNat]? else r.qs[d.toNat]?

/-- The distances of the samples a line's filter replaces. -/
def LineResult.distances (r : LineResult) : List Int :=
  ((List.range r.ps.length).map fun i : Nat => -1 - (i : Int)) ++
    (List.range r.qs.length).map fun i : Nat => (i : Int)

/-- The writes of a line whose filter gives `r`. -/
def placedWrites (n : BitVec 5) (dir : Bool) (c x y k : Nat) (r : LineResult) : List (Nat × Int) :=
  sideWrites (pAddr n dir c x y k) r.ps ++ sideWrites (qAddr n dir c x y k) r.qs

theorem LineResult.distances_nodup (r : LineResult) : r.distances.Nodup := by
  refine (List.nodup_range.map fun i j h => ?_).append (List.nodup_range.map fun i j h => ?_) fun d hp hq => ?_
  · omega
  · exact Int.ofNat.inj h
  · obtain ⟨i, -, rfl⟩ := List.mem_map.mp hp
    obtain ⟨j, -, h⟩ := List.mem_map.mp hq
    omega

/-- Every value of a line's result stands at a distance the result covers. -/
theorem LineResult.valueAt?_bounds {r : LineResult} {d v : Int} (h : r.valueAt? d = some v) :
    -(r.ps.length : Int) ≤ d ∧ d < r.qs.length := by
  unfold LineResult.valueAt? at h
  split_ifs at h
  · obtain ⟨hd, -⟩ := List.getElem?_eq_some_iff.mp h
    omega
  · obtain ⟨hd, -⟩ := List.getElem?_eq_some_iff.mp h
    omega

theorem LineResult.mem_distances {r : LineResult} {d : Int} : d ∈ r.distances ↔ ∃ v, r.valueAt? d = some v := by
  simp only [LineResult.distances, List.mem_append, List.mem_map, List.mem_range]
  constructor
  · rintro (⟨i, hi, rfl⟩ | ⟨i, hi, rfl⟩)
    · have back : (-1 - (-1 - (i : Int))).toNat = i := by omega
      exact ⟨r.ps[i], by rw [LineResult.valueAt?, if_pos (by omega), back, List.getElem?_eq_getElem hi]⟩
    · exact ⟨r.qs[i], by rw [LineResult.valueAt?, if_neg (by omega), Int.toNat_natCast, List.getElem?_eq_getElem hi]⟩
  · rintro ⟨v, h⟩
    obtain ⟨lo, hi⟩ := LineResult.valueAt?_bounds h
    by_cases side : d < 0
    · exact .inl ⟨(-1 - d).toNat, by omega, by omega⟩
    · exact .inr ⟨d.toNat, by omega, by omega⟩

theorem mem_sideWrites {addr : Nat → Nat} {vs : List Int} {w : Nat × Int} :
    w ∈ sideWrites addr vs ↔ ∃ i v, vs[i]? = some v ∧ w = (addr i, v) := by
  simp only [sideWrites, List.mem_map, Prod.exists, List.mem_zipIdx_iff_getElem?]
  constructor
  · rintro ⟨v, i, h, rfl⟩
    exact ⟨i, v, h, rfl⟩
  · rintro ⟨i, v, h, rfl⟩
    exact ⟨v, i, h, rfl⟩

theorem sideWrites_fst (addr : Nat → Nat) (vs : List Int) :
    (sideWrites addr vs).map Prod.fst = (List.range vs.length).map addr := by
  have indices : (vs.zipIdx).map Prod.snd = List.range vs.length := by
    rw [List.zipIdx_map_snd, List.range_eq_range']
  rw [← indices, List.map_map, sideWrites, List.map_map]
  rfl

theorem placedWrites_fst (n : BitVec 5) (dir : Bool) (c x y k : Nat) (r : LineResult) :
    (placedWrites n dir c x y k r).map Prod.fst = r.distances.map (edgeAddr n dir c x y k) := by
  simp only [placedWrites, LineResult.distances, List.map_append, sideWrites_fst, List.map_map, Function.comp_def,
    ← pAddr_eq, ← qAddr_eq]

theorem mem_placedWrites {n : BitVec 5} {dir : Bool} {c x y k : Nat} {r : LineResult} {w : Nat × Int} :
    w ∈ placedWrites n dir c x y k r ↔ ∃ d v, r.valueAt? d = some v ∧ w = (edgeAddr n dir c x y k d, v) := by
  simp only [placedWrites, List.mem_append, mem_sideWrites, pAddr_eq, qAddr_eq]
  constructor
  · rintro (⟨i, v, h, rfl⟩ | ⟨i, v, h, rfl⟩)
    · have back : (-1 - (-1 - (i : Int))).toNat = i := by omega
      exact ⟨-1 - i, v, by rwa [LineResult.valueAt?, if_pos (by omega), back], rfl⟩
    · exact ⟨i, v, by rwa [LineResult.valueAt?, if_neg (by omega), Int.toNat_natCast], rfl⟩
  · rintro ⟨d, v, h, rfl⟩
    unfold LineResult.valueAt? at h
    split_ifs at h with side
    · have back : -1 - ((-1 - d).toNat : Int) = d := by omega
      exact .inl ⟨_, v, h, by rw [back]⟩
    · have ahead : (d.toNat : Int) = d := by omega
      exact .inr ⟨_, v, h, by rw [ahead]⟩

end Sys2Proof.Machine

namespace Sys2Proof.Machine

/-! ## The writes of DEBLOCK, line by line (R178 to R186)

Luma and chroma segments are brought to one form: each line has a `LineResult`, empty where nothing is filtered. -/

/-- A line's result with the samples of protected blocks left out (R184). -/
def LineResult.shielded (r : LineResult) (g : CfgRegs) (e : Segment) : LineResult where
  ps := if loopProtected g e.mP then [] else r.ps
  qs := if loopProtected g e.mQ then [] else r.qs

/-- What the filter of line `k` of segment `e` of plane `c` at (x, y) gives, protection aside. -/
def filteredLine (s : State) (n : BitVec 5) (dir : Bool) (c x y : Nat) (e : Segment) (k : Nat) : LineResult :=
  let g := (s.slot n).cfg
  let bd := g.bitDepth c
  let line := s.readLine n dir bd c x y
  if c = 0 then
    if e.bS = 0 then ⟨[], []⟩
    else
      let tc := tcOf bd (qpAverage e.mP e.mQ) e
      lumaLine bd tc (lumaDecision (lumaBeta bd e) tc (line 0) (line 3)) (line k)
  else if e.bS ≠ 2 then ⟨[], []⟩
  else chromaLine bd (tcOf bd (chromaSegmentQp g c e) e) (line k)

/-- The filtered luma segment that decides the segment of plane `c` at component position (x, y): itself for luma, the
one at its anchor for chroma (R182). -/
def anchorSegment (sl : Slot) (dir : Bool) (c x y : Nat) : Option Segment :=
  lumaSegment sl dir (x * sl.cfg.subW c) (y * sl.cfg.subH c)

theorem anchorSegment_luma (sl : Slot) (dir : Bool) (x y : Nat) :
    anchorSegment sl dir 0 x y = lumaSegment sl dir x y := by
  simp [anchorSegment, CfgRegs.subW, CfgRegs.subH]

theorem anchorSegment_chroma (sl : Slot) (dir : Bool) {c : Nat} (hc : c ≠ 0) (x y : Nat) :
    anchorSegment sl dir c x y = lumaSegment sl dir (x * sl.cfg.subWidthC) (y * sl.cfg.subHeightC) := by
  simp [anchorSegment, CfgRegs.subW, CfgRegs.subH, hc]

/-- What DEBLOCK makes of line `k` of the segment of plane `c` at (x, y). -/
def segmentLine (s : State) (n : BitVec 5) (dir : Bool) (c x y k : Nat) : LineResult :=
  match anchorSegment (s.slot n) dir c x y with
  | none => ⟨[], []⟩
  | some e => (filteredLine s n dir c x y e k).shielded (s.slot n).cfg e

section
variable {s : State} {n : BitVec 5} {dir : Bool} {c x y k rx ry : Nat}

theorem segmentLine_none (h : anchorSegment (s.slot n) dir c x y = none) (k : Nat) :
    segmentLine s n dir c x y k = ⟨[], []⟩ := by
  rw [segmentLine, h]

theorem segmentLine_some {e : Segment} (h : anchorSegment (s.slot n) dir c x y = some e) (k : Nat) :
    segmentLine s n dir c x y k = (filteredLine s n dir c x y e k).shielded (s.slot n).cfg e := by
  rw [segmentLine, h]

theorem lineWrites_eq (g : CfgRegs) (e : Segment) (n : BitVec 5) (dir : Bool) (c x y k : Nat) (r : LineResult) :
    lineWrites g e n dir c x y k r = placedWrites n dir c x y k (r.shielded g e) := rfl

theorem placedWrites_shielded_empty (n : BitVec 5) (dir : Bool) (c x y k : Nat) (g : CfgRegs) (e : Segment) :
    placedWrites n dir c x y k (LineResult.shielded ⟨[], []⟩ g e) = [] := by
  simp [placedWrites, LineResult.shielded, sideWrites]

theorem lumaSegmentWrites_eq (s : State) (n : BitVec 5) (dir : Bool) (x y : Nat) : lumaSegmentWrites s n dir x y =
    (List.range 4).flatMap fun k => placedWrites n dir 0 x y k (segmentLine s n dir 0 x y k) := by
  have anchor := anchorSegment_luma (s.slot n) dir x y
  cases found : lumaSegment (s.slot n) dir x y with
  | none => simp [lumaSegmentWrites, segmentLine, anchor, found, placedWrites, sideWrites]
  | some e =>
    simp only [lumaSegmentWrites, segmentLine, anchor, found, filteredLine, if_true, lineWrites_eq]
    split_ifs
    · simp [placedWrites_shielded_empty]
    · rfl

theorem chromaSegmentWrites_eq (s : State) (n : BitVec 5) (dir : Bool) {c : Nat} (hc : c ≠ 0) (x y : Nat) :
    chromaSegmentWrites s n dir c x y =
      (List.range 4).flatMap fun k => placedWrites n dir c x y k (segmentLine s n dir c x y k) := by
  have anchor := anchorSegment_chroma (s.slot n) dir hc x y
  cases found : lumaSegment (s.slot n) dir (x * (s.slot n).cfg.subWidthC) (y * (s.slot n).cfg.subHeightC) with
  | none => simp [chromaSegmentWrites, segmentLine, anchor, found, placedWrites, sideWrites]
  | some e =>
    simp only [chromaSegmentWrites, segmentLine, anchor, found, filteredLine, if_neg hc, lineWrites_eq]
    split_ifs
    · simp [placedWrites_shielded_empty]
    · rfl

/-- DEBLOCK's writes, plane by plane, segment by segment, line by line. -/
theorem deblockWrites_eq (s : State) (n : BitVec 5) (dir : Bool) (rx ry : Nat) : deblockWrites s n dir rx ry =
    (s.slot n).cfg.planes.flatMap fun c => (ctbSegments (s.slot n).cfg dir c rx ry).flatMap fun e =>
      (List.range 4).flatMap fun k => placedWrites n dir c e.1 e.2 k (segmentLine s n dir c e.1 e.2 k) := by
  refine List.flatMap_congr fun c _ => List.flatMap_congr fun e _ => ?_
  split_ifs with h
  · rw [h, lumaSegmentWrites_eq]
  · exact chromaSegmentWrites_eq s n dir h e.1 e.2

/-! ### What a line can reach -/

/-- How many samples on each side of an edge a filter can change (R185). -/
def filterReach (c : Nat) : Nat := if c = 0 then 3 else 1

theorem filterReach_le (c : Nat) : filterReach c ≤ 3 := by
  unfold filterReach
  split_ifs <;> decide

theorem filteredLine_reach (s : State) (n : BitVec 5) (dir : Bool) (c x y : Nat) (e : Segment) (k : Nat) :
    (filteredLine s n dir c x y e k).ps.length ≤ filterReach c ∧
      (filteredLine s n dir c x y e k).qs.length ≤ filterReach c := by
  unfold filteredLine filterReach
  dsimp only
  split_ifs with hc
  · simp
  · have tc := tcOf_nonneg ((s.slot n).cfg.bitDepth c) (qpAverage e.mP e.mQ) e
    have range := readLine_inRange s n dir ((s.slot n).cfg.bitDepth c) c x y k
    exact ⟨(lumaLine_fits tc _ range).psLength, (lumaLine_fits tc _ range).qsLength⟩
  · simp
  · simp [chromaLine]

/-- At the left and top boundary of the picture there is no edge (R171). -/
theorem anchorSegment_boundary {sl : Slot} (h : (if dir then y else x) = 0) : anchorSegment sl dir c x y = none :=
  if_pos (.inl (by cases dir <;> simp_all))

theorem LineResult.valueAt?_shielded (r : LineResult) (g : CfgRegs) (e : Segment) (d : Int) :
    (r.shielded g e).valueAt? d = if loopProtected g (if d < 0 then e.mP else e.mQ) then none else r.valueAt? d := by
  simp only [LineResult.valueAt?, LineResult.shielded]
  split_ifs <;> simp

/-- A value of a segment's line is the filter's, of an edge that is filtered. -/
theorem filteredLine_of_segmentLine {d v : Int} (h : (segmentLine s n dir c x y k).valueAt? d = some v) :
    ∃ e, anchorSegment (s.slot n) dir c x y = some e ∧
      (filteredLine s n dir c x y e k).valueAt? d = some v := by
  cases found : anchorSegment (s.slot n) dir c x y with
  | none =>
    rw [segmentLine_none found] at h
    simp [LineResult.valueAt?] at h
  | some e =>
    rw [segmentLine_some found, LineResult.valueAt?_shielded, Option.ite_none_left_eq_some] at h
    exact ⟨e, rfl, h.2⟩

/-- A line that has a value at distance `d` is of an edge inside the picture, and `d` is within the filter's reach. -/
theorem segmentLine_reach {d v : Int} (h : (segmentLine s n dir c x y k).valueAt? d = some v) :
    0 < (if dir then y else x) ∧ -(filterReach c : Int) ≤ d ∧ d < filterReach c := by
  obtain ⟨e, found, h⟩ := filteredLine_of_segmentLine h
  constructor
  · refine Nat.pos_of_ne_zero fun h0 => ?_
    rw [anchorSegment_boundary h0] at found
    cases found
  · have bounds := LineResult.valueAt?_bounds h
    have reach := filteredLine_reach s n dir c x y e k
    omega

theorem SegmentPlace.atEdge (place : SegmentPlace (s.slot n).cfg dir c x y rx ry)
    (hc : (s.slot n).cfg.planeExists c = true) (hk : k < 4) {d : Int} (near : -4 ≤ d ∧ d < 4)
    (inside : 0 ≤ (if dir then y else x : Nat) + d) : AtEdge dir c x y k d where
  plane := Nat.lt_succ_of_lt (planeExists_lt hc)
  gridX := place.gridX
  gridY := place.gridY
  boundX := place.inX.trans (planeW_lt _ c)
  boundY := place.inY.trans (planeH_lt _ c)
  line := hk
  near := near
  inside := inside

/-- A sample DEBLOCK writes, as a sample at an edge. -/
theorem SegmentPlace.atEdge_of_valueAt? (place : SegmentPlace (s.slot n).cfg dir c x y rx ry)
    (hc : (s.slot n).cfg.planeExists c = true) (hk : k < 4) {d v : Int}
    (h : (segmentLine s n dir c x y k).valueAt? d = some v) : AtEdge dir c x y k d := by
  obtain ⟨pos, lo, hi⟩ := segmentLine_reach h
  have reach := filterReach_le c
  refine place.atEdge hc hk (by omega) ?_
  have grid : 8 ≤ (if dir then y else x) := by
    obtain ⟨gridX, gridY, -⟩ := place
    cases dir <;> simp at * <;> omega
  omega

theorem mem_deblockWrites (units : 16 ∣ (s.slot n).cfg.ctbSize) {w : Nat × Int} :
    w ∈ deblockWrites s n dir rx ry ↔ ∃ c x y k d v, (s.slot n).cfg.planeExists c = true ∧
      SegmentPlace (s.slot n).cfg dir c x y rx ry ∧ k < 4 ∧ (segmentLine s n dir c x y k).valueAt? d = some v ∧
      w = (edgeAddr n dir c x y k d, v) := by
  simp only [deblockWrites_eq, List.mem_flatMap, List.mem_range, mem_placedWrites, mem_planes_iff, Prod.exists]
  constructor
  · rintro ⟨c, hc, x, y, he, k, hk, d, v, h, rfl⟩
    exact ⟨c, x, y, k, d, v, hc, (mem_ctbSegments units).mp he, hk, h, rfl⟩
  · rintro ⟨c, x, y, k, d, v, hc, place, hk, h, rfl⟩
    exact ⟨c, hc, x, y, (mem_ctbSegments units).mpr place, k, hk, d, v, h, rfl⟩

end

/-! ## No sample is written twice (R185, R186) -/

/-- Plane, segment, line and distance of every write of a DEBLOCK, in order. -/
def deblockPlaces (s : State) (n : BitVec 5) (dir : Bool) (rx ry : Nat) :
    List (Σ _ : Nat, Σ _ : Nat × Nat, Σ _ : Nat, Int) :=
  (s.slot n).cfg.planes.sigma fun c => (ctbSegments (s.slot n).cfg dir c rx ry).sigma fun e =>
    (List.range 4).sigma fun k => (segmentLine s n dir c e.1 e.2 k).distances

section
variable (s : State) (n : BitVec 5) (dir : Bool) (rx ry : Nat)

theorem deblockPlaces_nodup : (deblockPlaces s n dir rx ry).Nodup :=
  (planes_nodup _).sigma fun c => (ctbSegments_nodup _ dir c rx ry).sigma fun _ =>
    List.nodup_range.sigma fun _ => LineResult.distances_nodup _

theorem deblockWrites_fst : (deblockWrites s n dir rx ry).map Prod.fst =
    (deblockPlaces s n dir rx ry).map fun p => edgeAddr n dir p.1 p.2.1.1 p.2.1.2 p.2.2.1 p.2.2.2 := by
  simp only [deblockWrites_eq, deblockPlaces, List.sigma, List.map_flatMap, List.map_map, Function.comp_def,
    placedWrites_fst]

variable {s n dir rx ry}

theorem deblockPlaces_atEdge (units : 16 ∣ (s.slot n).cfg.ctbSize) {p : Σ _ : Nat, Σ _ : Nat × Nat, Σ _ : Nat, Int}
    (h : p ∈ deblockPlaces s n dir rx ry) : AtEdge dir p.1 p.2.1.1 p.2.1.2 p.2.2.1 p.2.2.2 := by
  obtain ⟨c, ⟨x, y⟩, k, d⟩ := p
  simp only [deblockPlaces, List.mem_sigma, List.mem_range, mem_planes_iff, LineResult.mem_distances,
    mem_ctbSegments units] at h
  obtain ⟨hc, place, hk, v, hv⟩ := h
  exact place.atEdge_of_valueAt? hc hk hv

theorem deblockWrites_nodup (units : 16 ∣ (s.slot n).cfg.ctbSize) :
    ((deblockWrites s n dir rx ry).map Prod.fst).Nodup := by
  rw [deblockWrites_fst]
  refine (deblockPlaces_nodup s n dir rx ry).map_on fun p hp q hq same => ?_
  obtain ⟨ec, ex, ey, ek, ed⟩ := edgeAddr_inj (deblockPlaces_atEdge units hp) (deblockPlaces_atEdge units hq) same
  obtain ⟨c, ⟨x, y⟩, k, d⟩ := p
  obtain ⟨c', ⟨x', y'⟩, k', d'⟩ := q
  subst ec ex ey ek ed
  rfl

end

/-- Settles O53: the writes have distinct places by `deblockWrites_nodup`, and a place lies within the filter's reach of
a segment of the CTB. -/
theorem deblockDisjoint : Obligations.DeblockDisjoint := by
  rintro s n dir rx ry _ rfl valid - -
  obtain ⟨width, height, units⟩ := validCfg_sizes valid
  refine ⟨deblockWrites_nodup units, fun w hw => ?_⟩
  obtain ⟨c, x, y, k, d, v, hc, place, hk, h, rfl⟩ := (mem_deblockWrites units).mp hw
  obtain ⟨-, lo, hi⟩ := segmentLine_reach h
  have atEdge := place.atEdge_of_valueAt? hc hk h
  have reach := filterReach_le c
  have gridX : 4 ∣ x := by have := place.gridX; cases dir <;> simp at this <;> omega
  have gridY : 4 ∣ y := by have := place.gridY; cases dir <;> simp at this <;> omega
  obtain ⟨insideX, fromX, toX⟩ := gridPlace_room (subW_cases _ c) units (ctbSize_pos _) width gridX place.inX place.ctbX
  obtain ⟨insideY, fromY, toY⟩ :=
    gridPlace_room (subH_cases _ c) units (ctbSize_pos _) height gridY place.inY place.ctbY
  have inside := atEdge.inside
  cases dir with
  | false =>
    refine ⟨c, ((x : Int) + d).toNat, y + k, hc, rfl, ?_⟩
    simp only [Bool.false_eq_true, if_false, CfgRegs.planeW, CfgRegs.planeH] at inside ⊢
    unfold filterReach at reach lo hi
    omega
  | true =>
    refine ⟨c, x + k, ((y : Int) + d).toNat, hc, rfl, ?_⟩
    simp only [if_true, CfgRegs.planeW, CfgRegs.planeH] at inside ⊢
    unfold filterReach at reach lo hi
    omega

/-! ## A slice without deblocking (R172) -/

/-- The slice of a segment is that of its Q side's CTB; with deblocking disabled there it is not filtered. -/
theorem anchorSegment_disabled {sl : Slot} {dir : Bool} {c x y rx ry : Nat}
    (place : SegmentPlace sl.cfg dir c x y rx ry)
    (disabled : (sl.sliceAt (sl.ctbAt rx ry).sliceIdx).deblockDisabled = true) :
    anchorSegment sl dir c x y = none := by
  have ctb : sl.ctbOf (x * sl.cfg.subW c) (y * sl.cfg.subH c) = sl.ctbAt rx ry := by
    rw [Slot.ctbOf, place.ctbX, place.ctbY]
  exact if_pos (.inr (.inr (by simp [filterEdge, ctb, disabled])))

theorem deblockWrites_disabled {s : State} {n : BitVec 5} {dir : Bool} {rx ry : Nat}
    (units : 16 ∣ (s.slot n).cfg.ctbSize)
    (disabled : ((s.slot n).sliceAt ((s.slot n).ctbAt rx ry).sliceIdx).deblockDisabled = true) :
    deblockWrites s n dir rx ry = [] := by
  refine List.eq_nil_iff_forall_not_mem.mpr fun w hw => ?_
  obtain ⟨c, x, y, k, d, v, -, place, -, h, -⟩ := (mem_deblockWrites units).mp hw
  rw [segmentLine_none (anchorSegment_disabled place disabled)] at h
  simp [LineResult.valueAt?] at h

/-- The state a DEBLOCK leaves when its checks pass. -/
def deblocked (s : State) (n : BitVec 5) (dir : Bool) (rx ry : Nat) : State :=
  complete 2 (s.setSamples (deblockWrites s n dir rx ry)).drawn

/-- A DEBLOCK of a CTB inside the picture completes with its writes. -/
theorem exec_deblock_pass {s : State} {n : BitVec 5} {rx ry : BitVec 16} (dir : Bool) (flight : InFlight s n)
    (hrx : rx.toNat < (s.slot n).cfg.widthInCtbs) (hry : ry.toNat < (s.slot n).cfg.heightInCtbs) :
    exec (.deblock n dir rx ry) s = .next (deblocked s n dir rx.toNat ry.toNat) ∧
      Completed 2 s (deblocked s n dir rx.toNat ry.toNat) := by
  have effect : deblockEffect n dir rx ry s = .ok (s.setSamples (deblockWrites s n dir rx.toNat ry.toNat)).drawn := by
    rw [deblockEffect, withInFlight_pass flight.1 flight.2, if_neg (by simp [CfgRegs.ctbInside, hrx, hry])]
  exact ⟨congrArg (finish 2 s) effect, (deblockEffect_ok effect).completed 2⟩

/-- Settles O52: with deblocking disabled the list of writes is empty. -/
theorem deblockDisabled : Obligations.DeblockDisabled := by
  intro s n dir rx ry flight valid hrx hry disabled
  obtain ⟨-, -, units⟩ := validCfg_sizes valid
  obtain ⟨runs, completed⟩ := exec_deblock_pass dir flight hrx hry
  refine ⟨_, runs, completed, by simp [KeepsCoef, deblocked], fun _ => rfl, fun a => ?_, ⟨rfl, rfl⟩⟩
  rw [deblocked, deblockWrites_disabled units disabled]
  rfl

end Sys2Proof.Machine

namespace Sys2Proof.Machine

/-! ## The filters in the words of the rules (R175 to R183) -/

theorem shl_one (v : Int) : shl v 1 = 2 * v := by
  unfold shl
  ring

theorem clip3_zero_toNat {m : Nat} (v : Int) :
    (clip3 0 m v).toNat ≤ m ∧ ((clip3 0 m v).toNat : Int) = clip3 0 m v := by
  unfold clip3
  split_ifs <;> omega

theorem qpAverage_eq (mP mQ : MetaRec) : qpAverage mP mQ = meanQp mP mQ := shr_eq_div _ 1

theorem lumaBeta_eq (bd : Nat) (e : Segment) : lumaBeta bd e = ruleBeta bd e.mP e.mQ e.sq := by
  obtain ⟨le, cast⟩ := clip3_zero_toNat (m := 51) (meanQp e.mP e.mQ + 2 * e.sq.betaOffsetDiv2.toInt)
  rw [lumaBeta, ruleBeta, qpAverage_eq, shl_one]
  exact congrArg (· * 2 ^ (bd - 8)) ((betaPrime_eq _ le).trans (congrArg ruleBetaPrime cast))

theorem tcOf_eq (bd : Nat) (qp : Int) (e : Segment) : tcOf bd qp e = ruleTc bd qp e.sq e.bS := by
  obtain ⟨le, cast⟩ := clip3_zero_toNat (m := 53) (qp + 2 * ((e.bS : Int) - 1) + 2 * e.sq.tcOffsetDiv2.toInt)
  rw [tcOf, ruleTc, shl_one]
  exact congrArg (· * 2 ^ (bd - 8)) ((tcPrime_eq _ le).trans (congrArg ruleTcPrime cast))

theorem chromaSegmentQp_eq (g : CfgRegs) (c : Nat) (e : Segment) :
    chromaSegmentQp g c e = ruleChromaSegmentQp g c e.mP e.mQ := by
  simp only [chromaSegmentQp, ruleChromaSegmentQp, qpAverage_eq, chromaQpTable_eq]

/-- The line of samples `f`, `f (-1 - i)` its `p_i` and `f i` its `q_i` (R177). -/
def lineOf (f : Int → Int) : Line := ⟨f (-1), f (-2), f (-3), f (-4), f 0, f 1, f 2, f 3⟩

section
variable (bd : Nat) (tc : Int) (f : Int → Int) {d : Int}

theorem strongLine_rule (near : -4 ≤ d ∧ d < 4) :
    ((strongLine tc (lineOf f)).valueAt? d).getD (f d) = ruleStrong tc f d := by
  obtain ⟨lo, hi⟩ := near
  interval_cases d <;> simp [strongLine, lineOf, LineResult.valueAt?, ruleStrong]
  -- What is left are the three Q samples, whose taps the rule adds up from the far end.
  all_goals
    congr 2
    ring

theorem weakLine_rule (dEp dEq : Bool) (near : -4 ≤ d ∧ d < 4) :
    ((weakLine bd tc dEp dEq (lineOf f)).valueAt? d).getD (f d) = ruleWeak bd tc dEp dEq f d := by
  obtain ⟨lo, hi⟩ := near
  unfold weakLine ruleWeak
  dsimp only [lineOf]
  by_cases off : 10 * tc ≤ absI (shr (9 * (f 0 - f (-1)) - 3 * (f 1 - f (-2)) + 8) 4)
  · rw [if_pos off, if_pos off]
    simp [LineResult.valueAt?]
  · rw [if_neg off, if_neg off]
    interval_cases d <;> cases dEp <;> cases dEq <;> rfl

theorem chromaLine_rule {l : Line} (h : l.p0 = f (-1) ∧ l.p1 = f (-2) ∧ l.q0 = f 0 ∧ l.q1 = f 1)
    (near : -2 ≤ d ∧ d < 2) : ((chromaLine bd tc l).valueAt? d).getD (f d) = ruleChroma bd tc f d := by
  obtain ⟨lo, hi⟩ := near
  obtain ⟨p0, p1, q0, q1⟩ := h
  have scaled : shl (f 0 - f (-1)) 2 = 4 * (f 0 - f (-1)) := mul_comm _ _
  unfold chromaLine ruleChroma
  rw [p0, p1, q0, q1, scaled]
  interval_cases d <;> rfl

end

/-- A line of a luma segment of strength `b`, not 0, after the filter its segment decides on. -/
theorem lumaLine_rule {bd b : Nat} (hb : b ≠ 0) (beta tc : Int) (f : Nat → Int → Int) (k : Nat) {d : Int}
    (near : -4 ≤ d ∧ d < 4) :
    ((lumaLine bd tc (lumaDecision beta tc (lineOf (f 0)) (lineOf (f 3))) (lineOf (f k))).valueAt? d).getD (f k d) =
      ruleLuma bd b beta tc f k d := by
  have activity : (b = 0 ∨ beta ≤ (lineOf (f 0)).dp + (lineOf (f 0)).dq + (lineOf (f 3)).dp + (lineOf (f 3)).dq) ↔
      beta ≤ (lineOf (f 0)).dp + (lineOf (f 0)).dq + ((lineOf (f 3)).dp + (lineOf (f 3)).dq) := by
    rw [add_assoc]
    exact or_iff_right hb
  refine Eq.trans ?_ (if_congr activity rfl rfl).symm
  unfold lumaDecision
  dsimp only
  by_cases off : beta ≤ (lineOf (f 0)).dp + (lineOf (f 0)).dq + ((lineOf (f 3)).dp + (lineOf (f 3)).dq)
  · rw [if_pos off, if_pos off]
    simp [lumaLine, LineResult.valueAt?]
  · rw [if_neg off, if_neg off, apply_ite (fun m => lumaLine bd tc m (lineOf (f k))),
      apply_ite (fun r => (LineResult.valueAt? r d).getD (f k d))]
    exact if_congr Iff.rfl (strongLine_rule tc (f k) near) (weakLine_rule bd tc (f k) _ _ near)

/-! ## Reading a line (R53, R177) -/

theorem readSample_of_stored {s : State} {bd a : Nat} {v : Int} (hbd : bd ≤ 16) (range : InRange bd v)
    (h : memSample? s.mem a = some (BitVec.ofInt 16 v)) (use : Nat) : s.readSample use bd a = v := by
  obtain ⟨m, rfl⟩ := Int.eq_ofNat_of_zero_le range.1
  have small : m < 2 ^ bd := by exact_mod_cast range.2
  have fits : m < 2 ^ 16 := small.trans_le (Nat.pow_le_pow_right (by decide) hbd)
  rw [State.readSample, h, BitVec.ofInt_natCast]
  show Int.ofNat ((BitVec.ofNat 16 m).toNat % 2 ^ bd) = m
  rw [BitVec.toNat_ofNat, Nat.mod_eq_of_lt fits, Nat.mod_eq_of_lt small]
  rfl

section
variable {s : State} {n : BitVec 5} {dir : Bool} {c x y k : Nat} {r : Int} {f : Nat → Int → Int}

theorem LinesAre.readSample (lines : LinesAre s n dir c x y r f) (hbd : (s.slot n).cfg.bitDepth c ≤ 16) (hk : k < 4)
    {d : Int} (lo : -r ≤ d) (hi : d < r) :
    s.readSample 0 ((s.slot n).cfg.bitDepth c) (edgeAddr n dir c x y k d) = f k d := by
  obtain ⟨nonneg, bound, stored⟩ := lines k d hk lo hi
  exact readSample_of_stored hbd ⟨nonneg, bound⟩ stored 0

theorem LinesAre.readLine (lines : LinesAre s n dir c x y 4 f) (hbd : (s.slot n).cfg.bitDepth c ≤ 16) (hk : k < 4) :
    s.readLine n dir ((s.slot n).cfg.bitDepth c) c x y k = lineOf (f k) := by
  have read {d : Int} (lo : -4 ≤ d) (hi : d < 4) := lines.readSample hbd hk lo hi
  simp only [State.readLine, pAddr_eq, qAddr_eq, lineOf, Line.mk.injEq]
  exact ⟨read (by decide) (by decide), read (by decide) (by decide), read (by decide) (by decide),
    read (by decide) (by decide), read (by decide) (by decide), read (by decide) (by decide),
    read (by decide) (by decide), read (by decide) (by decide)⟩

/-- The four samples a chroma filter reads. -/
theorem LinesAre.readChroma (lines : LinesAre s n dir c x y 2 f) (hbd : (s.slot n).cfg.bitDepth c ≤ 16)
    (hk : k < 4) :
    (s.readLine n dir ((s.slot n).cfg.bitDepth c) c x y k).p0 = f k (-1) ∧
      (s.readLine n dir ((s.slot n).cfg.bitDepth c) c x y k).p1 = f k (-2) ∧
      (s.readLine n dir ((s.slot n).cfg.bitDepth c) c x y k).q0 = f k 0 ∧
      (s.readLine n dir ((s.slot n).cfg.bitDepth c) c x y k).q1 = f k 1 := by
  have read {d : Int} (lo : -2 ≤ d) (hi : d < 2) := lines.readSample hbd hk lo hi
  simp only [State.readLine, pAddr_eq, qAddr_eq]
  exact ⟨read (by decide) (by decide), read (by decide) (by decide), read (by decide) (by decide),
    read (by decide) (by decide)⟩

end

/-! ## The samples after a DEBLOCK (R186) -/

section
variable {s : State} {n : BitVec 5} {dir : Bool} {c x y k rx ry : Nat} {d : Int}

/-- The only write at an edge sample of the CTB is that of its own line. -/
theorem value_of_mem_deblockWrites (units : 16 ∣ (s.slot n).cfg.ctbSize) (atEdge : AtEdge dir c x y k d)
    {w : Nat × Int} (hw : w ∈ deblockWrites s n dir rx ry) (ha : w.1 = edgeAddr n dir c x y k d) :
    (segmentLine s n dir c x y k).valueAt? d = some w.2 := by
  obtain ⟨c', x', y', k', d', v, hc, place, hk, h, rfl⟩ := (mem_deblockWrites units).mp hw
  obtain ⟨rfl, rfl, rfl, rfl, rfl⟩ := edgeAddr_inj (place.atEdge_of_valueAt? hc hk h) atEdge ha
  exact h

/-- Every write of a DEBLOCK reads back: no other write is at its address. -/
theorem memSample_deblockWrites_of_mem (units : 16 ∣ (s.slot n).cfg.ctbSize) {w : Nat × Int}
    (hw : w ∈ deblockWrites s n dir rx ry) :
    memSample? (memSetSamples s.mem (deblockWrites s n dir rx ry)) w.1 = some (BitVec.ofInt 16 w.2) := by
  refine memSample_setSamples_mem s.mem _ (fun p hp => (deblockWrites_isSampleWrite dir rx ry p hp).even) hw
    fun p hp same => ?_
  obtain ⟨c, x, y, k, d, v, hc, place, hk, h, rfl⟩ := (mem_deblockWrites units).mp hw
  exact Option.some.inj ((value_of_mem_deblockWrites units (place.atEdge_of_valueAt? hc hk h) hp same).symm.trans h)

/-- A written sample at an edge of the CTB, after the writes: its line's value, or as before where that has none. -/
theorem memSample_deblockWrites (units : 16 ∣ (s.slot n).cfg.ctbSize) (hc : (s.slot n).cfg.planeExists c = true)
    (place : SegmentPlace (s.slot n).cfg dir c x y rx ry) (hk : k < 4) (near : -4 ≤ d ∧ d < 4) {v : Int}
    (stored : memSample? s.mem (edgeAddr n dir c x y k d) = some (BitVec.ofInt 16 v)) :
    memSample? (memSetSamples s.mem (deblockWrites s n dir rx ry)) (edgeAddr n dir c x y k d) =
      some (BitVec.ofInt 16 (((segmentLine s n dir c x y k).valueAt? d).getD v)) := by
  have even : edgeAddr n dir c x y k d % 2 = 0 := by
    unfold edgeAddr
    split_ifs <;> exact sampleAddr_even n .recon c _ _
  cases h : (segmentLine s n dir c x y k).valueAt? d with
  | some u => exact memSample_deblockWrites_of_mem units ((mem_deblockWrites units).mpr ⟨c, x, y, k, d, u, hc, place,
      hk, h, rfl⟩)
  | none =>
    rcases memSample_setSamples_cases s.mem _ even
      fun p hp => (deblockWrites_isSampleWrite dir rx ry p hp).even with unchanged | ⟨w, hw, ha, -⟩
    · exact unchanged.trans stored
    · by_cases inside : 0 ≤ ((if dir then y else x : Nat) : Int) + d
      · rw [value_of_mem_deblockWrites units (place.atEdge hc hk near inside) hw ha] at h
        cases h
      · -- At the picture's boundary `edgeAddr` cuts off at coordinate 0, whose segment filters nothing.
        obtain ⟨zero, clamped⟩ : (if dir then y else x) = 0 ∧
            edgeAddr n dir c x y k d = edgeAddr n dir c x y k 0 := by
          have gridX := place.gridX
          have gridY := place.gridY
          cases dir <;> simp only [Bool.false_eq_true, if_false, if_true, edgeAddr] at * <;>
            exact ⟨by omega, by congr 1; omega⟩
        have first := value_of_mem_deblockWrites units (place.atEdge hc hk (d := 0) (by decide) (by omega)) hw
          (ha.trans clamped)
        exact absurd zero (segmentLine_reach first).1.ne'

/-- A CTB that holds a sample of the picture is one of the picture's. -/
theorem ctb_lt_ceilDiv {size sub pic : Nat} (hsize : 0 < size) (hsub : 0 < sub) (inside : x < pic / sub) :
    x * sub / size < ceilDiv pic size := by
  have le : (x + 1) * sub ≤ pic := (Nat.le_div_iff_mul_le hsub).mp inside
  have room : x * sub + size ≤ pic + size - 1 := by
    rw [Nat.succ_mul] at le
    omega
  calc x * sub / size < (x * sub + size) / size := by rw [Nat.add_div_right _ hsize]; exact Nat.lt_succ_self _
    _ ≤ (pic + size - 1) / size := Nat.div_le_div_right room

end

section
variable {s t : State} {n : BitVec 5} {dir : Bool} {c x y k : Nat} {rx ry : BitVec 16} {d : Int}

/-- A DEBLOCK of the CTB of a segment ends with its writes. -/
theorem exec_deblock_eq (flight : InFlight s n) (place : SegmentPlace (s.slot n).cfg dir c x y rx.toNat ry.toNat)
    (h : exec (.deblock n dir rx ry) s = .next t) : t = deblocked s n dir rx.toNat ry.toNat := by
  have subW : 0 < (s.slot n).cfg.subW c := by rcases subW_cases (s.slot n).cfg c with e | e <;> omega
  have subH : 0 < (s.slot n).cfg.subH c := by rcases subH_cases (s.slot n).cfg c with e | e <;> omega
  have hrx := place.ctbX ▸ ctb_lt_ceilDiv (ctbSize_pos _) subW place.inX
  have hry := place.ctbY ▸ ctb_lt_ceilDiv (ctbSize_pos _) subH place.inY
  rw [(exec_deblock_pass dir flight hrx hry).1] at h
  cases h
  rfl

/-- After a DEBLOCK a written sample at an edge of its CTB holds its line's value, or what it held. -/
theorem memSample_of_exec_deblock (flight : InFlight s n) (valid : validCfg s.params (s.slot n).cfg = none)
    (hc : (s.slot n).cfg.planeExists c = true) (place : SegmentOfCtb (s.slot n).cfg dir c x y rx ry) (hk : k < 4)
    (near : -4 ≤ d ∧ d < 4) {v : Int} (h : exec (.deblock n dir rx ry) s = .next t)
    (stored : memSample? s.mem (edgeAddr n dir c x y k d) = some (BitVec.ofInt 16 v)) :
    memSample? t.mem (edgeAddr n dir c x y k d) =
      some (BitVec.ofInt 16 (((segmentLine s n dir c x y k).valueAt? d).getD v)) := by
  obtain ⟨-, -, units⟩ := validCfg_sizes valid
  rw [exec_deblock_eq flight (segmentOfCtb_iff.mp place) h]
  exact memSample_deblockWrites units hc (segmentOfCtb_iff.mp place) hk near stored

theorem loopProtected_iff (g : CfgRegs) (m : MetaRec) : loopProtected g m = true ↔ Protected g m := by
  simp [loopProtected, Protected]

/-- On a side that is not protected a line of a filtered edge takes its filter's values; a protected side stays. -/
theorem segmentLine_getD {e : Segment} (found : anchorSegment (s.slot n) dir c x y = some e) (k : Nat) (d v : Int) :
    (¬ Protected (s.slot n).cfg (if d < 0 then e.mP else e.mQ) →
      ((segmentLine s n dir c x y k).valueAt? d).getD v = ((filteredLine s n dir c x y e k).valueAt? d).getD v) ∧
    (Protected (s.slot n).cfg (if d < 0 then e.mP else e.mQ) →
      ((segmentLine s n dir c x y k).valueAt? d).getD v = v) := by
  rw [segmentLine_some found, LineResult.valueAt?_shielded, ← loopProtected_iff]
  exact ⟨fun unshielded => by rw [if_neg unshielded], fun shielded => by rw [if_pos shielded]; rfl⟩

/-- A line of a segment that is not filtered stays. -/
theorem segmentLine_getD_none (found : anchorSegment (s.slot n) dir c x y = none) (k : Nat) (d v : Int) :
    ((segmentLine s n dir c x y k).valueAt? d).getD v = v := by
  rw [segmentLine_none found]
  simp [LineResult.valueAt?]

/-- The luma filter of DEBLOCK is that of R178 to R181. -/
theorem filteredLine_luma {f : Nat → Int → Int} (lines : LinesAre s n dir 0 x y 4 f)
    (hbd : (s.slot n).cfg.bitDepth 0 ≤ 16) (e : Segment) (hk : k < 4) (near : -4 ≤ d ∧ d < 4) :
    ((filteredLine s n dir 0 x y e k).valueAt? d).getD (f k d) =
      ruleLuma ((s.slot n).cfg.bitDepth 0) e.bS (ruleBeta ((s.slot n).cfg.bitDepth 0) e.mP e.mQ e.sq)
        (ruleTc ((s.slot n).cfg.bitDepth 0) (meanQp e.mP e.mQ) e.sq e.bS) f k d := by
  unfold filteredLine
  dsimp only
  rw [if_pos rfl]
  by_cases weak : e.bS = 0
  · rw [if_pos weak, ruleLuma, if_pos (.inl weak)]
    simp [LineResult.valueAt?]
  · rw [if_neg weak, lines.readLine hbd (by decide : 0 < 4), lines.readLine hbd (by decide : 3 < 4),
      lines.readLine hbd hk, lumaBeta_eq, tcOf_eq, qpAverage_eq, lumaLine_rule weak _ _ f k near]

/-- The chroma filter of DEBLOCK is that of R182 and R183, on a segment of strength 2. -/
theorem filteredLine_chroma {f : Nat → Int → Int} (hc : c ≠ 0) (lines : LinesAre s n dir c x y 2 f)
    (hbd : (s.slot n).cfg.bitDepth c ≤ 16) (mP mQ : MetaRec) (sq : SliceRec) (hk : k < 4) (near : -2 ≤ d ∧ d < 2) :
    ((filteredLine s n dir c x y ⟨mP, mQ, sq, 2⟩ k).valueAt? d).getD (f k d) =
      ruleChroma ((s.slot n).cfg.bitDepth c)
        (ruleTc ((s.slot n).cfg.bitDepth c) (ruleChromaSegmentQp (s.slot n).cfg c mP mQ) sq 2) (f k) d := by
  unfold filteredLine
  dsimp only
  rw [if_neg hc, if_neg (by simp), tcOf_eq, chromaSegmentQp_eq]
  exact chromaLine_rule _ _ (f k) (lines.readChroma hbd hk) near

/-- A chroma line stays unless its anchor is filtered with strength 2 (R182, log 14). -/
theorem segmentLine_chroma_unfiltered (hc : c ≠ 0) (k : Nat) (d v : Int) (unfiltered : ∀ mP mQ sq,
      anchorSegment (s.slot n) dir c x y ≠ some ⟨mP, mQ, sq, 2⟩) :
    ((segmentLine s n dir c x y k).valueAt? d).getD v = v := by
  cases found : anchorSegment (s.slot n) dir c x y with
  | none => exact segmentLine_getD_none found k d v
  | some e =>
    obtain ⟨mP, mQ, sq, b⟩ := e
    have hb : b ≠ 2 := fun two => unfiltered mP mQ sq (two ▸ found)
    have nothing : filteredLine s n dir c x y ⟨mP, mQ, sq, b⟩ k = ⟨[], []⟩ := by simp [filteredLine, hc, hb]
    rw [segmentLine_some found, nothing]
    simp [LineResult.valueAt?, LineResult.shielded]

end

/-! ## The statement on DEBLOCK -/

/-- DEBLOCK writes its list of writes and nothing else. -/
theorem deblock_writes {s : State} {n : BitVec 5} {dir : Bool} {rx ry : BitVec 16} (flight : InFlight s n)
    (valid : validCfg s.params (s.slot n).cfg = none) (hrx : rx.toNat < (s.slot n).cfg.widthInCtbs)
    (hry : ry.toNat < (s.slot n).cfg.heightInCtbs) :
    ∃ t, exec (.deblock n dir rx ry) s = .next t ∧ KeepsCoef s t ∧
      ChangesSamples 2 (fun a => ∃ w ∈ deblockWrites s n dir rx.toNat ry.toNat, a = w.1 ∨ a = w.1 + 1) s t ∧
      ∀ w ∈ deblockWrites s n dir rx.toNat ry.toNat, memSample? t.mem w.1 = some (BitVec.ofInt 16 w.2) := by
  obtain ⟨-, -, units⟩ := validCfg_sizes valid
  obtain ⟨runs, completed⟩ := exec_deblock_pass dir flight hrx hry
  refine ⟨_, runs, by simp [KeepsCoef, deblocked], ⟨completed, fun _ => rfl, fun a ha => ?_, ⟨rfl, rfl⟩⟩,
    fun w hw => memSample_deblockWrites_of_mem units hw⟩
  exact memByte_setSamples_other s.mem _ fun w hw => ⟨fun e => ha ⟨w, hw, .inl e⟩, fun e => ha ⟨w, hw, .inr e⟩⟩

/-- Settles O38: the writes by `deblock_writes`; a luma or chroma sample holds its line's value, and the lines are those
of the rules by `filteredLine_luma` and `filteredLine_chroma`. -/
theorem deblockResult : Obligations.DeblockResult := by
  refine ⟨fun s n dir rx ry => deblock_writes, ?_, ?_⟩
  · rintro s t n dir rx ry x y k _ d f _ rfl rfl flight valid place lines hk lo hi runs
    have exists0 : (s.slot n).cfg.planeExists 0 = true := by simp [CfgRegs.planeExists]
    have depth : (s.slot n).cfg.bitDepth 0 ≤ 16 := (validCfg_bitDepth valid exists0).2.trans (by decide)
    rw [memSample_of_exec_deblock flight valid exists0 place hk ⟨lo, hi⟩ runs (lines k d hk lo hi).2.2]
    simp only [segmentAt_iff, ← anchorSegment_luma]
    refine ⟨fun mP mQ sq b found => ?_, fun unfiltered => ?_⟩
    · obtain ⟨filtered, shielded⟩ := segmentLine_getD found k d (f k d)
      exact ⟨fun h => by rw [filtered h, filteredLine_luma lines depth _ hk ⟨lo, hi⟩], fun h => by rw [shielded h]⟩
    · rw [segmentLine_getD_none (Option.eq_none_iff_forall_ne_some.mpr fun e => unfiltered _ _ _ _)]
  · rintro s t n dir rx ry c x y k _ d f _ _ rfl rfl hc planeOk flight valid place lines hk lo hi rfl runs
    have depth : (s.slot n).cfg.bitDepth c ≤ 16 := (validCfg_bitDepth valid planeOk).2.trans (by decide)
    have chroma : c ≠ 0 := Nat.pos_iff_ne_zero.mp hc
    rw [memSample_of_exec_deblock flight valid planeOk place hk ⟨by omega, by omega⟩ runs (lines k d hk lo hi).2.2]
    simp only [segmentAt_iff]
    refine ⟨fun mP mQ sq found => ?_, fun unfiltered => ?_⟩
    · obtain ⟨filtered, shielded⟩ := segmentLine_getD found k d (f k d)
      exact ⟨fun h => by rw [filtered h, filteredLine_chroma chroma lines depth _ _ _ hk ⟨lo, hi⟩],
        fun h => by rw [shielded h]⟩
    · rw [segmentLine_chroma_unfiltered chroma k d (f k d) unfiltered]

end Sys2Proof.Machine

namespace Sys2Proof.Machine

/-! ## SET_SAO (R37, R193) -/

theorem saoAt_set_same (sl : Slot) (c rx ry : Nat) (r : SaoRec) :
    Slot.saoAt { sl with saos := tableSet SaoRec.reset sl.saos (saoKey c rx ry) r } c rx ry = r := by
  simp [Slot.saoAt]

theorem saoAt_set_other (sl : Slot) {c rx ry c' rx' ry' : Nat} (r : SaoRec) (hrx : rx < 65536) (hrx' : rx' < 65536)
    (hry : ry < 65536) (hry' : ry' < 65536) (h : ¬ (c' = c ∧ rx' = rx ∧ ry' = ry)) :
    Slot.saoAt { sl with saos := tableSet SaoRec.reset sl.saos (saoKey c rx ry) r } c' rx' ry' =
      sl.saoAt c' rx' ry' := by
  simp only [Slot.saoAt]
  rw [tableGet_set_other SaoRec.reset sl.saos r fun e => h (saoKey_inj hrx' hrx hry' hry e)]

section
variable {s : State} {n : BitVec 5} {c ty : BitVec 2} {pos : BitVec 5} {rx ry : BitVec 16} {o1 o2 o3 o4 : BitVec 8}

/-- A SET_SAO whose checks pass writes one entry of the slot's table. -/
theorem setSaoEffect_pass (ready : PlaneReady s n c) (typeOk : ty ≠ 3) (classOk : ty = 2 → pos.toNat ≤ 3)
    (hrx : rx.toNat < (s.slot n).cfg.widthInCtbs) (hry : ry.toNat < (s.slot n).cfg.heightInCtbs) :
    setSaoEffect n c ty pos rx ry o1 o2 o3 o4 s = .ok (s.setSlot n { s.slot n with
      saos := tableSet SaoRec.reset (s.slot n).saos (saoKey c.toNat rx.toNat ry.toNat)
        (saoRecord ty pos o1 o2 o3 o4) }) := by
  obtain ⟨hc, ⟨hn, hf⟩, hp⟩ := ready
  have classInRange : ¬ (ty = 2 ∧ 3 < pos.toNat) := fun ⟨edge, above⟩ => Nat.not_lt.mpr (classOk edge) above
  rw [setSaoEffect, withPlane_pass hc hn hf hp]
  dsimp only
  rw [if_neg typeOk, if_neg classInRange, if_neg (by simp [CfgRegs.ctbInside, hrx, hry])]

end

/-- Settles O30: the checks pass, and one record is written, of the type's shape by evaluating `saoRecord`. -/
theorem setSaoResult : Obligations.SetSaoResult := by
  intro s n c ty pos rx ry o1 o2 o3 o4 ready typeOk classOk hrx hry
  have effect := setSaoEffect_pass (o1 := o1) (o2 := o2) (o3 := o3) (o4 := o4) ready typeOk classOk hrx hry
  refine ⟨_, congrArg (finish 3 s) effect, (setSaoEffect_ok effect).changesSlot 3, ?_⟩
  rw [slot_complete, slot_setSlot_same, saoAt_set_same]
  refine ⟨rfl, ?notApplied, ?band, ?edge, fun d x y hx hy other =>
    saoAt_set_other _ _ rx.isLt hx ry.isLt hy other⟩
  case notApplied => rintro rfl; rfl
  case band => rintro rfl; rfl
  case edge => rintro rfl; rfl

/-! ## The classes of a sample (R192, R195) -/

/-- The band of a sample that is not negative: its five high bits (R196). -/
theorem bandIdx_natCast (bd : Nat) (pos : BitVec 5) (v : Nat) :
    bandIdx bd pos v = bandTable pos (v / 2 ^ (bd - 5)) := by
  rw [bandIdx, shr_eq_div]
  congr 1

theorem band_lt {bd v : Nat} (hbd : 5 ≤ bd) (hv : v < 2 ^ bd) : v / 2 ^ (bd - 5) < 32 := by
  refine Nat.div_lt_of_lt_mul ?_
  calc v < 2 ^ bd := hv
    _ = 2 ^ (bd - 5) * 2 ^ 5 := by rw [← Nat.pow_add, Nat.sub_add_cancel hbd]

theorem bandTable_covered {k : Nat} (pos : BitVec 5) (hk : k < 4) :
    bandTable pos ((k + pos.toNat) % 32) = k + 1 := by
  have hpos := pos.isLt
  have distance : ((k + pos.toNat) % 32 + 32 - pos.toNat) % 32 = k := by omega
  simp only [bandTable, distance, if_pos hk]

theorem bandTable_uncovered {b : Nat} (pos : BitVec 5) (hb : b < 32) (h : ∀ k < 4, b ≠ (k + pos.toNat) % 32) :
    bandTable pos b = 0 := by
  have hpos := pos.isLt
  have far : ¬ (b + 32 - pos.toNat) % 32 < 4 := fun near => h _ near (by omega)
  simp only [bandTable, if_neg far]

theorem signI_sub (v a : Int) : signI (v - a) = if v < a then -1 else if v = a then 0 else 1 := by
  unfold signI
  split_ifs <;> omega

/-- The edge class by the place of the sample against each neighbour (R195). -/
theorem edgeIdx_eq (v a b : Int) : edgeIdx v a b =
    if v < a ∧ v < b then 1
    else if (v < a ∧ v = b) ∨ (v = a ∧ v < b) then 2
    else if (v > a ∧ v = b) ∨ (v = a ∧ v > b) then 3
    else if v > a ∧ v > b then 4 else 0 := by
  have below {m : Int} (h : v < m) : ¬ v = m ∧ ¬ v > m := by omega
  have above {m : Int} (h : v > m) : ¬ v < m ∧ ¬ v = m := by omega
  rw [edgeIdx, signI_sub, signI_sub]
  rcases lt_trichotomy v a with ha | rfl | ha
  · rcases lt_trichotomy v b with hb | rfl | hb
    · simp [ha, hb]
    · simp [ha]
    · simp [ha, below ha, above hb]
  · rcases lt_trichotomy v b with hb | rfl | hb
    · simp [hb]
    · simp
    · simp [hb, above hb]
  · rcases lt_trichotomy v b with hb | rfl | hb
    · simp [hb, above ha, below hb]
    · simp [ha, above ha]
    · simp [ha, hb, above ha, above hb]

/-- Settles O55: the bands by `bandTable`, the edge classes by `edgeIdx_eq`. -/
theorem saoClasses : Obligations.SaoClasses := by
  refine ⟨fun bd pos v hbd _ hv => ?_, edgeIdx_eq⟩
  rw [bandIdx_natCast]
  exact ⟨fun k hk band => band ▸ bandTable_covered pos hk,
    bandTable_uncovered pos (band_lt (Nat.le_trans (by decide) hbd) hv)⟩

/-! ## The region of a CTB (R194) -/

section
variable {g : CfgRegs} {r sub len x : Nat}

/-- Along one axis: the samples of the region are those of the CTB that lie in the plane. -/
theorem ctbRegion_iff : (∃ i < g.ctbLength r sub len, x = g.ctbStart r sub + i) ↔
    r * g.ctbSize / sub ≤ x ∧ x < (r + 1) * g.ctbSize / sub ∧ x < len := by
  unfold CfgRegs.ctbLength CfgRegs.ctbStart
  constructor
  · rintro ⟨i, hi, rfl⟩
    omega
  · rintro ⟨lo, hi, inside⟩
    exact ⟨x - r * g.ctbSize / sub, by omega, by omega⟩

/-- A sample whose luma position lies in CTB `r` is between the region's bounds, as CTBs hold whole samples. -/
theorem ctbBounds_of_ctb (whole : sub ∣ g.ctbSize) (ctb : x * sub / g.ctbSize = r) :
    r * g.ctbSize / sub ≤ x ∧ x < (r + 1) * g.ctbSize / sub := by
  subst ctb
  constructor
  · exact Nat.div_le_of_le_mul (by rw [Nat.mul_comm sub]; exact Nat.div_mul_le_self _ _)
  · rw [Nat.lt_div_iff_mul_lt_of_dvd (ne_zero_of_dvd_ne_zero (ctbSize_pos g).ne' whole) (whole.mul_left _),
      Nat.mul_comm _ g.ctbSize]
    exact Nat.lt_mul_div_succ _ (ctbSize_pos g)

end

/-! ## SAO (R199, R200) -/

section
variable {s : State} {n : BitVec 5} {rx ry : Nat} {g : CfgRegs} (cfg : g = (s.slot n).cfg)
include cfg

theorem mem_saoWrites {w : Nat × Int} : w ∈ saoWrites s n rx ry ↔ ∃ c i j, g.planeExists c = true ∧
    i < g.ctbLength rx (g.subW c) (g.planeW c) ∧ j < g.ctbLength ry (g.subH c) (g.planeH c) ∧
    w = (sampleAddr n .out c (g.ctbStart rx (g.subW c) + i) (g.ctbStart ry (g.subH c) + j),
      saoOut s n c rx ry (g.ctbStart rx (g.subW c) + i) (g.ctbStart ry (g.subH c) + j)) := by
  subst cfg
  simp only [saoWrites, List.mem_flatMap, mem_blockWrites, mem_planes_iff]
  constructor
  · rintro ⟨c, hc, i, j, place⟩
    exact ⟨c, i, j, hc, place⟩
  · rintro ⟨c, i, j, hc, place⟩
    exact ⟨c, hc, i, j, place⟩

/-- The writes of a SAO reach no byte outside the regions of its CTB. -/
theorem memByte_saoWrites_other (m : List Host.Cell) {a : Nat} (ha : ¬ ∃ c, g.planeExists c = true ∧
      InBlock n .out c (g.ctbStart rx (g.subW c)) (g.ctbStart ry (g.subH c)) (g.ctbLength rx (g.subW c) (g.planeW c))
        (g.ctbLength ry (g.subH c) (g.planeH c)) a) :
    memByte? (memSetSamples m (saoWrites s n rx ry)) a = memByte? m a :=
  memByte_setSamples_other m _ fun w hw => by
    obtain ⟨c, i, j, hc, hi, hj, rfl⟩ := (mem_saoWrites cfg).mp hw
    exact ⟨fun e => ha ⟨c, hc, i, j, hi, hj, .inl e⟩, fun e => ha ⟨c, hc, i, j, hi, hj, .inr e⟩⟩

/-- A sample of a region reads back as the value written: no other write of the SAO has its address. -/
theorem memSample_saoWrites (m : List Host.Cell) {c i j : Nat} (hc : g.planeExists c = true)
    (hi : i < g.ctbLength rx (g.subW c) (g.planeW c)) (hj : j < g.ctbLength ry (g.subH c) (g.planeH c)) :
    memSample? (memSetSamples m (saoWrites s n rx ry))
        (sampleAddr n .out c (g.ctbStart rx (g.subW c) + i) (g.ctbStart ry (g.subH c) + j)) =
      some (BitVec.ofInt 16
        (saoOut s n c rx ry (g.ctbStart rx (g.subW c) + i) (g.ctbStart ry (g.subH c) + j))) := by
  have room {k r sub len : Nat} (hk : k < g.ctbLength r sub len) (hlen : len < 65536) : g.ctbStart r sub + k < 65536 :=
    (ctbRegion_inside hk).trans hlen
  refine memSample_setSamples_mem m _ (fun w hw => (saoWrites_isSampleWrite rx ry w hw).even)
    ((mem_saoWrites cfg).mpr ⟨c, i, j, hc, hi, hj, rfl⟩) fun w hw same => ?_
  obtain ⟨c', i', j', hc', hi', hj', rfl⟩ := (mem_saoWrites cfg).mp hw
  obtain ⟨-, -, rfl, sameX, sameY⟩ := sampleAddr_inj (Nat.lt_succ_of_lt (planeExists_lt hc'))
    (Nat.lt_succ_of_lt (planeExists_lt hc)) (room hi' (planeW_lt g c')) (room hi (planeW_lt g c))
    (room hj' (planeH_lt g c')) (room hj (planeH_lt g c)) same
  simp only [sameX, sameY]

end

/-- A SAO of a CTB inside the picture has its writes as effect. -/
theorem saoEffect_pass {s : State} {n : BitVec 5} {rx ry : BitVec 16} (flight : InFlight s n)
    (hrx : rx.toNat < (s.slot n).cfg.widthInCtbs) (hry : ry.toNat < (s.slot n).cfg.heightInCtbs) :
    saoEffect n rx ry s = .ok (s.setSamples (saoWrites s n rx.toNat ry.toNat)).drawn := by
  rw [saoEffect, withInFlight_pass flight.1 flight.2, if_neg (by simp [CfgRegs.ctbInside, hrx, hry])]

/-- Settles O39: the checks pass, and the samples are those of `saoWrites`. -/
theorem saoResult : Obligations.SaoResult := by
  intro s n rx ry g cfg flight hrx hry
  have effect := saoEffect_pass flight (cfg ▸ hrx) (cfg ▸ hry)
  refine ⟨_, congrArg (finish 2 s) effect, by simp [KeepsCoef],
    ⟨(saoEffect_ok effect).completed 2, fun _ => rfl, fun _ => memByte_saoWrites_other cfg s.mem, ⟨rfl, rfl⟩⟩,
    fun c x y hc loX hiX inX loY hiY inY => ?_⟩
  obtain ⟨i, hi, rfl⟩ := ctbRegion_iff.mpr ⟨loX, hiX, inX⟩
  obtain ⟨j, hj, rfl⟩ := ctbRegion_iff.mpr ⟨loY, hiY, inY⟩
  exact memSample_saoWrites cfg s.mem hc hi hj

theorem saoApplied_of_disabled {sl : Slot} (off : sl.cfg.saoEnabled = false) (c rx ry : Nat) :
    saoApplied sl c rx ry = false := by simp [saoApplied, off]

/-- Settles O54: without SAO the value `saoResult` gives is the sample as read from Rec. -/
theorem saoOff : Obligations.SaoOff := by
  intro s n rx ry g cfg flight valid off hrx hry
  obtain ⟨-, -, units⟩ := validCfg_sizes valid
  have wholeX (c : Nat) : g.subW c ∣ g.ctbSize := by
    simpa using grid_dvd_ctbSize units (subW_cases g c) (one_dvd 8)
  have wholeY (c : Nat) : g.subH c ∣ g.ctbSize := by
    simpa using grid_dvd_ctbSize units (subH_cases g c) (one_dvd 8)
  obtain ⟨t, runs, -, changes, written⟩ := saoResult s n rx ry g cfg flight hrx hry
  refine ⟨t, runs, changes.completed, fun c x y v hc inX inY ctbX ctbY stored => ?_⟩
  obtain ⟨loX, hiX⟩ := ctbBounds_of_ctb (wholeX c) ctbX
  obtain ⟨loY, hiY⟩ := ctbBounds_of_ctb (wholeY c) ctbY
  rw [written c x y hc loX hiX inX loY hiY inY, saoApplied_of_disabled (cfg ▸ off), if_neg Bool.false_ne_true,
    sample_of_stored stored, BitVec.ofInt_natCast, cfg]

end Sys2Proof.Machine

namespace Sys2Proof.Machine

/-! ## Commands that leave the slots and the samples alone -/

/-- A command without an effect of its own only leaves the queue and is counted (R22). -/
theorem complete_keeps {s : State} {i : Instr} (effect : Effect s i s) (len : Nat) :
    Completed len s (complete len s) ∧ KeepsCoef s (complete len s) ∧ KeepsSlots s (complete len s) ∧
      KeepsMemory s (complete len s) ∧ KeepsWarnings s (complete len s) :=
  ⟨effect.completed len, by simp [KeepsCoef], fun _ => rfl, fun _ => rfl, rfl, rfl⟩

/-- Settles O20: the effect of NOP is the state itself. -/
theorem nopResult : Obligations.NopResult := fun s => ⟨complete 1 s, rfl, complete_keeps .nop 1⟩

/-! ## A decoded slot (R212) -/

/-- Of the commands that edit a slot, REG_WRITE and PIC_INIT ask for a free one, PIC_FREE for an allocated one, and
every other for one in flight. -/
theorem SlotEdit.free_or_inFlight {s : State} {n : BitVec 5} {i : Instr} {sl : Slot} (edit : SlotEdit s n i sl)
    (hi : i ≠ .picFree n) : (s.slot n).alloc = false ∨ InFlight s n := by
  cases edit with
  | regWrite _ _ free => exact .inl free
  | picInit free => exact .inl free
  | picFree => exact absurd rfl hi
  | _ => exact .inr ‹_›

/-- Of the commands on an allocated slot that is not in flight, only a wait completes, beside PIC_FREE. -/
theorem Effect.eq_of_not_inFlight {s u : State} {n : BitVec 5} {i : Instr} (effect : Effect s i u)
    (named : namedSlot i = some n) (alloc : (s.slot n).alloc = true) (landed : ¬ InFlight s n)
    (hi : i ≠ .picFree n) : u = s := by
  have no_edit {m : BitVec 5} {sl : Slot} (edit : SlotEdit s m i sl) : False := by
    obtain rfl : m = n := Option.some.inj (edit.named.symm.trans named)
    rcases edit.free_or_inFlight hi with free | flight
    · rw [alloc] at free; cases free
    · exact landed flight
  have no_write {m : BitVec 5} {ws : List (Nat × Int)} (writes : SampleWrites s m i ws) : False := by
    obtain rfl : m = n := Option.some.inj (writes.named.symm.trans named)
    exact landed writes.inFlight
  cases effect with
  | nop => rfl
  | waited => rfl
  | slot edit => exact (no_edit edit).elim
  | picInit edit => exact (no_edit edit).elim
  | coefWrite => cases named
  | coefClear => cases named
  | samples _ writes => exact (no_write writes).elim
  | residual _ _ _ _ _ _ _ writes => exact (no_write writes).elim
  | predicted _ _ _ _ _ _ _ _ _ _ _ _ _ writes => exact (no_write writes).elim
  | warned m c expl denom x y w h wt0 of0 wt1 of1 code flight =>
    cases named
    exact absurd flight landed

/-- Settles O15: a command on another slot by `slotIsolation`, one on this slot by `Effect.eq_of_not_inFlight`. -/
theorem decodedSlotFrozen : Obligations.DecodedSlotFrozen := by
  intro i s t n alloc done h hi
  have landed : ¬ InFlight s n := fun flight => by
    have := (Slot.inFlight_iff _).mp flight.2
    rw [done] at this
    cases this.2
  by_cases named : namedSlot i = some n
  · cases exec_ending h with
    | completed effect =>
      obtain rfl := effect.eq_of_not_inFlight named alloc landed hi
      exact ⟨rfl, fun _ _ => rfl⟩
    | _ => exact ⟨rfl, fun _ _ => rfl⟩
  · exact slotIsolation i s t n h named

end Sys2Proof.Machine

namespace Sys2Proof.Machine

/-! ## REG_WRITE (R215) -/

theorem cfgRead_write_same (g : CfgRegs) {r : BitVec 8} (hr : r.toNat ≤ 6) (v : Word) : (g.write r v).read r = v := by
  unfold CfgRegs.write
  split
  case h_8 => grind
  all_goals simp [CfgRegs.read, *]

theorem cfgRead_write_other (g : CfgRegs) {r r' : BitVec 8} (v : Word) (h : r' ≠ r) :
    (g.write r v).read r' = g.read r' := by
  have ne : r'.toNat ≠ r.toNat := fun e => h (BitVec.eq_of_toNat_eq e)
  unfold CfgRegs.write
  split
  case h_8 => rfl
  all_goals
    unfold CfgRegs.read
    split <;> grind

/-- Settles O21: register 0 to 6 of a free slot is written, a higher number is refused before the slot is looked at. -/
theorem regWriteResult : Obligations.RegWriteResult := by
  intro s n reg value hn
  have checked (k : Slot → Except FaultCode State) : withSlot s n k = k (s.slot n) := if_pos hn
  refine ⟨fun hr free => ?_, fun hr => ?_⟩
  · have effect : regWriteEffect n reg value s =
        .ok (s.setSlot n { s.slot n with cfg := (s.slot n).cfg.write reg value }) := by
      rw [regWriteEffect, checked, if_neg (Nat.not_lt.mpr hr), if_neg (by simp [free])]
    refine ⟨_, congrArg (finish 2 s) effect, (regWriteEffect_ok effect).changesSlot 2, ?_⟩
    rw [slot_complete, slot_setSlot_same]
    exact ⟨rfl, cfgRead_write_same _ hr value, fun r other => cfgRead_write_other _ value other⟩
  · have effect : regWriteEffect n reg value s = .error .codedParameterOutOfRange := by
      rw [regWriteEffect, checked, if_pos hr]
    exact ⟨_, congrArg (finish 2 s) effect, faulted_raise _ s⟩

/-! ## The life cycle of a slot (R216 to R218) -/

/-- Settles O22: the slot is `Slot.fresh`, and the memory forgets its samples. -/
theorem picInitResult : Obligations.PicInitResult := by
  intro s n hn free valid
  have effect : picInitEffect n s =
      .ok { s.setSlot n (Slot.fresh (s.slot n).cfg) with mem := memForget s.mem n } := by
    simp [picInitEffect, withSlot, hn, free, valid]
  have slot : ({ s.setSlot n (Slot.fresh (s.slot n).cfg) with mem := memForget s.mem n } : State).slot n =
      Slot.fresh (s.slot n).cfg := slot_setSlot_same s n _
  refine ⟨_, congrArg (finish 1 s) effect, (picInitEffect_ok effect).completed 1, ?_,
    fun m hm => slot_setSlot_other s _ hm, ⟨rfl, rfl⟩, memByte_forget s.mem n, ?_⟩
  · rw [KeepsCoef, me_complete]
    rfl
  · rw [slot_complete, slot]
    exact ⟨rfl, rfl, rfl, rfl, fun _ _ => rfl, fun _ _ => rfl, fun _ => rfl, fun _ _ _ => rfl, fun _ _ => rfl,
      fun _ _ _ _ => rfl⟩

theorem Integrity.completed_of_ne {q : Integrity} (h : q ≠ .notDecoded) : q.completed = q :=
  q.completed_cases.resolve_right fun ⟨e, _⟩ => h e

/-- Settles O23: the new tag is `Integrity.completed`. -/
theorem picDoneResult : Obligations.PicDoneResult := by
  intro s n flight
  have effect : picDoneEffect n s =
      .ok (s.setSlot n { s.slot n with done := true, integrity := (s.slot n).integrity.completed }) :=
    withInFlight_pass flight.1 flight.2
  refine ⟨_, congrArg (finish 1 s) effect, (picDoneEffect_ok effect).changesSlot 1, ?_⟩
  rw [slot_complete, slot_setSlot_same]
  exact ⟨rfl, fun fresh => by rw [fresh]; rfl, Integrity.completed_of_ne, rfl⟩

/-- PIC_FREE of an existing slot asks only whether it is allocated. -/
theorem picFreeEffect_present {s : State} {n : BitVec 5} (hn : n.toNat < s.params.numSlots) : picFreeEffect n s =
    if (s.slot n).alloc then .ok (s.setSlot n { s.slot n with alloc := false }) else .error .slotNotAllocated :=
  if_pos hn

/-- Settles O24: the two branches of `picFreeEffect_present`. -/
theorem picFreeResult : Obligations.PicFreeResult := by
  intro s n hn
  refine ⟨fun alloc => ?_, fun free => ?_⟩
  · have effect := (picFreeEffect_present hn).trans (if_pos alloc)
    exact ⟨_, congrArg (finish 1 s) effect, (picFreeEffect_ok effect).changesSlot 1, slot_setSlot_same s n _⟩
  · have effect := (picFreeEffect_present hn).trans (if_neg (by simp [free]))
    exact ⟨_, congrArg (finish 1 s) effect, faulted_raise _ s⟩

/-! ## The metadata commands (R219 to R221) -/

theorem ctbInside_iff {g : CfgRegs} {rx ry : Nat} :
    g.ctbInside rx ry = true ↔ rx < g.widthInCtbs ∧ ry < g.heightInCtbs := decide_eq_true_iff

theorem ctbAt_set_same (sl : Slot) (x y : Nat) (r : CtbRec) :
    Slot.ctbAt { sl with ctbs := tableSet CtbRec.reset sl.ctbs (cellKey x y) r } x y = r :=
  tableGet_set_same ..

theorem ctbAt_set_other (sl : Slot) {x y x' y' : Nat} (r : CtbRec) (hx : x < 65536) (hx' : x' < 65536)
    (h : ¬ (x' = x ∧ y' = y)) :
    Slot.ctbAt { sl with ctbs := tableSet CtbRec.reset sl.ctbs (cellKey x y) r } x' y' = sl.ctbAt x' y' :=
  tableGet_set_other _ _ r fun e => h (cellKey_inj hx' hx e)

theorem sliceAt_set_same (sl : Slot) (i : BitVec 16) (r : SliceRec) :
    Slot.sliceAt { sl with slices := tableSet SliceRec.reset sl.slices i.toNat r } i = r :=
  tableGet_set_same ..

theorem sliceAt_set_other (sl : Slot) {i j : BitVec 16} (r : SliceRec) (h : j ≠ i) :
    Slot.sliceAt { sl with slices := tableSet SliceRec.reset sl.slices i.toNat r } j = sl.sliceAt j :=
  tableGet_set_other _ _ r fun e => h (BitVec.eq_of_toNat_eq e)

/-- Settles O25: the four checks pass, and one record is written. -/
theorem setCtbResult : Obligations.SetCtbResult := by
  intro s n rx ry addr slice tile flight hrx hry haddr hslice htile
  have effect : setCtbEffect n rx ry addr slice tile s = .ok (s.setSlot n { s.slot n with
      ctbs := tableSet CtbRec.reset (s.slot n).ctbs (cellKey rx.toNat ry.toNat) ⟨addr, slice, tile, true⟩ }) := by
    rw [setCtbEffect, withInFlight_pass flight.1 flight.2, if_neg (by simp [ctbInside_iff.mpr ⟨hrx, hry⟩]),
      if_neg (Nat.not_le.mpr haddr), if_neg (Nat.not_le.mpr hslice), if_neg (Nat.not_le.mpr htile)]
  refine ⟨_, congrArg (finish 4 s) effect, (setCtbEffect_ok effect).changesSlot 4, ?_⟩
  rw [slot_complete, slot_setSlot_same]
  exact ⟨rfl, ctbAt_set_same _ _ _ _, fun x y hx _ other => ctbAt_set_other _ _ rx.isLt hx other⟩

/-- Settles O26: the two checks pass, and one record is written. -/
theorem setSliceResult : Obligations.SetSliceResult := by
  intro s n idx dbk lf saoL saoC beta tc flight hidx betaLo betaHi tcLo tcHi
  have offsets : ¬ (sliceOffsetOk beta = false ∨ sliceOffsetOk tc = false) := by
    simp [sliceOffsetOk, betaLo, betaHi, tcLo, tcHi]
  have effect : setSliceEffect n idx ⟨dbk, lf, saoL, saoC, beta, tc⟩ s = .ok (s.setSlot n { s.slot n with
      slices := tableSet SliceRec.reset (s.slot n).slices idx.toNat ⟨dbk, lf, saoL, saoC, beta, tc⟩ }) := by
    rw [setSliceEffect, withInFlight_pass flight.1 flight.2, if_neg (Nat.not_le.mpr hidx), if_neg offsets]
  refine ⟨_, congrArg (finish 2 s) effect, (setSliceEffect_ok effect).changesSlot 2, ?_⟩
  rw [slot_complete, slot_setSlot_same]
  exact ⟨rfl, sliceAt_set_same _ _ _, fun j other => sliceAt_set_other _ _ other⟩

/-- Settles O27: the five checks pass, and the records are those of `metaAt_modifyBlocks`. -/
theorem setCuResult : Obligations.SetCuResult := by
  intro s n k intra pcm bypass q x y flight hk3 hk hx hy qLo qHi pcmOk hw hh
  have size : ¬ (k.toNat < 3 ∨ (s.slot n).cfg.log2Ctb < k.toNat) := by omega
  have aligned : ¬ (x.toNat % 2 ^ k.toNat ≠ 0 ∨ y.toNat % 2 ^ k.toNat ≠ 0) := by omega
  have range : ¬ (q.toInt < -(s.slot n).cfg.qpBdOffset 0 ∨ 51 < q.toInt) := by omega
  have modes : ¬ (pcm = true ∧ intra = false) := fun ⟨isPcm, inter⟩ => by
    rw [pcmOk isPcm] at inter; cases inter
  have place : ¬ ((s.slot n).cfg.picWidth < x.toNat + 2 ^ k.toNat ∨
      (s.slot n).cfg.picHeight < y.toNat + 2 ^ k.toNat) := by omega
  have effect : setCuEffect n k intra pcm bypass q x y s = .ok (s.setSlot n ((s.slot n).modifyBlocks x.toNat y.toNat
      (2 ^ k.toNat) (2 ^ k.toNat) fun m => m.withCu intra pcm bypass q)) := by
    rw [setCuEffect, withInFlight_pass flight.1 flight.2]
    dsimp only
    rw [if_neg size, if_neg aligned, if_neg range, if_neg modes, if_neg place]
  obtain ⟨rect, -⟩ := blockRect_of_aligned (by omega) hx hy (bits (s.slot n).cfg.picWidthReg 0 16).isLt hw
  refine ⟨_, congrArg (finish 2 s) effect, (setCuEffect_ok effect).changesSlot 2, ?_⟩
  rw [slot_complete, slot_setSlot_same]
  exact ⟨rfl, fun bx bz hbx _ => metaAt_modifyBlocks rect (fun _ => rfl) hbx⟩

end Sys2Proof.Machine

namespace Sys2Proof.Machine

/-! ## PUT_SAMPLE (R223) -/

/-- One sample is a block of one row and one column. -/
theorem blockWrites_one (n : BitVec 5) (set : PlaneSet) (c x y : Nat) (v : Int) :
    blockWrites n set c x y 1 1 (fun _ _ => v) = [(sampleAddr n set c x y, v)] := by
  simp [blockWrites]

/-- PUT_SAMPLE inside a plane that can be worked on: a fault where the value has too many bits, else one sample. -/
theorem putSampleEffect_ready {s : State} {n : BitVec 5} {c : BitVec 2} {x y : BitVec 16} (ready : PlaneReady s n c)
    (hx : x.toNat < (s.slot n).cfg.planeW c.toNat) (hy : y.toNat < (s.slot n).cfg.planeH c.toNat) (v : BitVec 16) :
    putSampleEffect n c x y v s =
      if 2 ^ (s.slot n).cfg.bitDepth c.toNat ≤ v.toNat then .error .codedParameterOutOfRange
      else .ok (s.setSamples [(sampleAddr n .recon c.toNat x.toNat y.toNat, Int.ofNat v.toNat)]) := by
  obtain ⟨hc, ⟨hn, hf⟩, hp⟩ := ready
  rw [putSampleEffect, withPlane_pass hc hn hf hp, if_neg (by omega)]

/-- Settles O34: the two branches of `putSampleEffect_ready`, the one sample as a block by `blockWrites_one`. -/
theorem putSampleResult : Obligations.PutSampleResult := by
  intro s n c x y v ready hx hy
  have effect := putSampleEffect_ready ready hx hy v
  refine ⟨fun depth => ?_, fun above => ?_⟩
  · rw [if_neg (Nat.not_le.mpr depth)] at effect
    refine ⟨_, congrArg (finish 3 s) effect, by simp [KeepsCoef],
      ⟨(putSampleEffect_ok effect).completed 3, fun _ => rfl, fun a ha => ?_, rfl, rfl⟩, ?_⟩
    · rw [← blockWrites_one]
      exact memByte_blockWrites_other s.mem ha
    · have even := sampleAddr_even n .recon c.toNat x.toNat y.toNat
      have stored := memSample_setSamples_mem s.mem [(sampleAddr n .recon c.toNat x.toNat y.toNat, Int.ofNat v.toNat)]
        (by simpa using even) List.mem_cons_self (by simp)
      rwa [Int.ofNat_eq_natCast, BitVec.ofInt_natCast, BitVec.ofNat_toNat, BitVec.setWidth_eq] at stored
  · rw [if_pos above] at effect
    exact ⟨_, congrArg (finish 3 s) effect, faulted_raise _ s⟩

/-! ## Progress (R225, R226) -/

/-- A value up to 4 names a stage (R66). -/
theorem progressOf_of_le {v : BitVec 3} (hv : v.toNat ≤ 4) : ∃ p, progressOf v = some p ∧ p.toNat = v.toNat := by
  cases h : progressOf v with
  | none => exact absurd hv (Nat.not_le.mpr (progressOf_eq_none h))
  | some p => exact ⟨p, rfl, progressOf_eq_some h⟩

/-- SET_PROGRESS of a CTB inside a picture in flight: a fault where the value lowers the cell, else the cell is
written. -/
theorem setProgressEffect_inside {s : State} {n : BitVec 5} {v : BitVec 3} {rx ry : BitVec 16} {p : Progress}
    (flight : InFlight s n) (named : progressOf v = some p) (hrx : rx.toNat < (s.slot n).cfg.widthInCtbs)
    (hry : ry.toNat < (s.slot n).cfg.heightInCtbs) : setProgressEffect n v rx ry s =
      if p.toNat < ((s.slot n).progressAt rx.toNat ry.toNat).toNat then .error .progressDecrease
      else .ok (s.setSlot n { s.slot n with
        progress := tableSet Progress.none (s.slot n).progress (cellKey rx.toNat ry.toNat) p }) := by
  rw [setProgressEffect, withInFlight_pass flight.1 flight.2, named]
  exact if_neg (by simp [ctbInside_iff.mpr ⟨hrx, hry⟩])

/-- Settles O40: the two branches of `setProgressEffect_inside`. -/
theorem setProgressResult : Obligations.SetProgressResult := by
  intro s n v rx ry flight hv hrx hry
  obtain ⟨p, named, value⟩ := progressOf_of_le hv
  have effect := setProgressEffect_inside flight named hrx hry
  rw [value] at effect
  refine ⟨fun raised => ?_, fun below => ?_⟩
  · rw [if_neg (Nat.not_lt.mpr raised)] at effect
    refine ⟨_, congrArg (finish 2 s) effect, (setProgressEffect_ok effect).changesSlot 2, ?_⟩
    rw [slot_complete, slot_setSlot_same, progressAt_set_same]
    exact ⟨rfl, value, fun x y hx _ other => progressAt_set_other _ p rx.isLt hx other⟩
  · rw [if_pos below] at effect
    exact ⟨_, congrArg (finish 2 s) effect, faulted_raise _ s⟩

/-- A wait whose checks pass compares the cell with its value. -/
theorem waitReached_inside {s : State} {n : BitVec 5} {v : BitVec 3} {rx ry : BitVec 16}
    (hn : n.toNat < s.params.numSlots) (alloc : (s.slot n).alloc = true) (hv : v.toNat ≤ 4)
    (hrx : rx.toNat < (s.slot n).cfg.widthInCtbs) (hry : ry.toNat < (s.slot n).cfg.heightInCtbs) :
    waitReached n v rx ry s = .ok (decide (v.toNat ≤ ((s.slot n).progressAt rx.toNat ry.toNat).toNat)) := by
  obtain ⟨p, named, value⟩ := progressOf_of_le hv
  rw [waitReached, if_neg (Nat.not_le.mpr hn), if_neg (by simp [alloc]), named, ← value]
  exact if_neg (by simp [ctbInside_iff.mpr ⟨hrx, hry⟩])

/-- A wait on a free slot is refused before its other fields are looked at. -/
theorem waitReached_free {s : State} {n : BitVec 5} (hn : n.toNat < s.params.numSlots)
    (free : (s.slot n).alloc = false) (v : BitVec 3) (rx ry : BitVec 16) :
    waitReached n v rx ry s = .error .slotNotAllocated := by
  rw [waitReached, if_neg (Nat.not_le.mpr hn), if_pos free]

/-- Settles O41: `waitReached_inside` on both sides of the cell's value, and `waitReached_free`. -/
theorem waitProgressResult : Obligations.WaitProgressResult := by
  intro s n v rx ry hn
  refine ⟨fun alloc hv hrx hry => ⟨fun reached => ?_, fun below => ?_⟩, fun free => ?_⟩
  · have evaluated := waitReached_inside hn alloc hv hrx hry
    rw [decide_eq_true reached] at evaluated
    exact ⟨_, exec_waitProgress_reached evaluated, complete_keeps (.waited n v rx ry) 2⟩
  · have inside : ¬ CtbOutside (s.slot n).cfg rx ry := by
      rw [ctbOutside_iff, ctbInside_iff.mpr ⟨hrx, hry⟩]
      simp
    refine ⟨?_, fun e running decoded =>
      engineState_held_iff.mpr ⟨running, n, v, rx, ry, decoded, hn, alloc, hv, inside, below⟩⟩
    simp [exec, execWaitProgress, waitReached_false_iff.mpr ⟨hn, alloc, hv, inside, below⟩]
  · refine ⟨raise .slotNotAllocated s, ?_, faulted_raise _ s, by simp [KeepsCoef]⟩
    simp [exec, execWaitProgress, waitReached_free hn free v rx ry]

end Sys2Proof.Machine

namespace Sys2Proof.Machine

/-! ## The configuration check (R213) -/

/-- The reserved bits above bit `lo` are 0 where the register is below 2 to the `lo`. -/
theorem bits_high_eq_zero_iff {w : Word} {lo len : Nat} (h : lo + len = 32) :
    bits w lo len = 0#len ↔ w.toNat < 2 ^ lo := by
  have fits : w.toNat / 2 ^ lo < 2 ^ len := by
    rw [Nat.div_lt_iff_lt_mul (Nat.two_pow_pos lo), ← Nat.pow_add, Nat.add_comm, h]
    exact w.isLt
  rw [bits_eq_iff, Nat.mod_eq_of_lt fits, BitVec.toNat_ofNat, Nat.zero_mod,
    Nat.div_eq_zero_iff_lt (Nat.two_pow_pos lo)]

theorem reservedClear_iff {g : CfgRegs} : g.reservedClear = true ↔
    g.picWidthReg.toNat < 2 ^ 16 ∧ g.picHeightReg.toNat < 2 ^ 16 ∧ g.formatReg.toNat < 2 ^ 13 ∧
      g.flagsReg.toNat < 2 ^ 6 ∧ g.qpOffsetsReg.toNat < 2 ^ 10 := by
  simp only [CfgRegs.reservedClear, Bool.and_eq_true, beq_iff_eq, and_assoc, bits_high_eq_zero_iff, Nat.reduceAdd]

theorem strideOk_iff {r : Word} {row : Nat} :
    strideOk r.toNat row = true ↔ r = 0 ∨ (r.toNat % 16 = 0 ∧ row ≤ r.toNat) := by
  rw [strideOk, decide_eq_true_iff, ← BitVec.toNat_inj]
  rfl

/-- The range check of the model is items 1 to 6 of R213. -/
theorem inRange_iff {g : CfgRegs} : g.inRange = true ↔ FieldsInRange g := by
  simp only [CfgRegs.inRange, FieldsInRange, Bool.and_eq_true, Bool.or_eq_true, beq_iff_eq, reservedClear_iff,
    strideOk_iff, dimensionOk, bitDepthOk, qpOffsetOk, decide_eq_true_eq, and_assoc]

/-- The size check of the model is the two limits of R213. -/
theorem fits_iff {p : Params} {g : CfgRegs} : g.fits p = true ↔ ¬ TooLarge p g := by
  simp only [CfgRegs.fits, Bool.and_eq_true, List.all_eq_true, mem_planes_iff, decide_eq_true_eq]
  simp only [TooLarge, CfgRegs.planeBytes, not_or, not_exists, not_and, Nat.not_lt, and_assoc]

theorem validCfg_eq (p : Params) (g : CfgRegs) [Decidable (FieldsInRange g)] [Decidable (TooLarge p g)] :
    validCfg p g =
      if FieldsInRange g then if TooLarge p g then some .outOfMemory else none
      else some .codedParameterOutOfRange := by
  simp only [validCfg, ← Bool.not_eq_true, inRange_iff, fits_iff, not_not, ite_not]

/-- Settles O43: the three branches of `validCfg_eq`. -/
theorem validCfgChecks : Obligations.ValidCfgChecks := by
  intro p g
  classical
  rw [validCfg_eq]
  split_ifs with inRange large
  · simp [inRange, large]
  · simp [inRange, large]
  · simp [inRange]

end Sys2Proof.Machine

namespace Sys2Proof.Machine

/-! ## get_warning (R241) -/

@[simp] theorem advanceAgenda_warn (s : State) : s.advanceAgenda.warn = s.warn := by
  unfold State.advanceAgenda
  split <;> rfl

@[simp] theorem advanceAgenda_warnOverflow (s : State) : s.advanceAgenda.warnOverflow = s.warnOverflow := by
  unfold State.advanceAgenda
  split <;> rfl

theorem step_host {s : State} {op : HostOp} (next : s.nextEvent = .host op) : step s = hostStep op s.advanceAgenda := by
  rw [step, next]
  rfl

section
variable {s : State}

theorem hostGetWarning_overflow (full : s.warnOverflow = true) :
    hostGetWarning s = { s with warnOverflow := false, reply := .value 1001 } := if_pos full

theorem hostGetWarning_empty (kept : s.warnOverflow = false) (empty : s.warn = []) :
    hostGetWarning s = { s with reply := .value 0 } := by
  simp [hostGetWarning, kept, empty, State.replied]

theorem hostGetWarning_oldest {w : BitVec 16} {rest : List (BitVec 16)} (kept : s.warnOverflow = false)
    (queued : s.warn = w :: rest) :
    hostGetWarning s = { s with warn := rest, reply := .value (BitVec.ofNat 32 w.toNat) } := by
  simp [hostGetWarning, kept, queued, State.replied]

end

/-- Settles O56: the three branches of `hostGetWarning`, at the state with the move taken off the agenda. -/
theorem getWarning : Obligations.GetWarning := by
  intro s next
  have runs : step s = .next (hostGetWarning s.advanceAgenda) := step_host next
  refine ⟨fun full => ?_, fun kept empty => ?_, fun w rest kept queued => ?_⟩
  · rw [runs, hostGetWarning_overflow (by simpa using full)]
  · rw [runs, hostGetWarning_empty (by simpa using kept) (by simpa using empty)]
  · rw [runs, hostGetWarning_oldest (by simpa using kept) (by simpa using queued)]

end Sys2Proof.Machine

namespace Sys2Proof.Machine

/-! ## Every command answers a next state (R228) -/

theorem finish_answers (len : Nat) (s : State) (r : Except FaultCode State) : ∃ t, finish len s r = .next t := by
  cases r <;> exact ⟨_, rfl⟩

theorem execWaitProgress_answers (s : State) (n : BitVec 5) (v : BitVec 3) (rx ry : BitVec 16) :
    ∃ t, execWaitProgress n v rx ry s = .next t := by
  unfold execWaitProgress
  split <;> exact ⟨_, rfl⟩

/-- No command stops the model: through `finish`, or in an arm of its own, each reaches a next state. -/
theorem exec_answers (i : Instr) (s : State) : ∃ t, exec i s = .next t := by
  cases i with
  | residual n c k tskip qp x y =>
    obtain ⟨t, runs, -⟩ := residualClearsCoef s n c k tskip qp x y
    exact ⟨t, runs⟩
  | waitProgress n v rx ry => exact execWaitProgress_answers s n v rx ry
  | nop | coefWrite | coefClear => exact ⟨_, rfl⟩
  | _ => exact finish_answers _ s _

/-- Settles O8: there is a next state, and it is one of the endings of `exec_ending`. -/
theorem commandOutcomes : Obligations.CommandOutcomes := by
  intro i s
  obtain ⟨t, runs⟩ := exec_answers i s
  refine ⟨t, runs, ?_⟩
  cases exec_ending runs with
  | completed effect => exact .inl (effect.completed _)
  | held isWait => exact .inr (.inl ⟨rfl, _, _, _, _, isWait⟩)
  | faulted code => exact .inr (.inr (.inl ⟨code, rfl⟩))
  | faultedCleared code isResidual => exact .inr (.inr (.inr ⟨code, _, _, _, _, _, _, _, isResidual, rfl⟩))

end Sys2Proof.Machine

namespace Sys2Proof.Machine

/-! ## How a fault ends a command (R230) -/

/-- What a command's checks find: a fault, or the effect of the command before its words leave the queue. The clearing
of the coefficient buffer by RESIDUAL is no part of it, and a wait, reached or held, has no effect. -/
def commandEffect (s : State) : Instr → Except FaultCode State
  | .nop => .ok s
  | .regWrite n reg value => regWriteEffect n reg value s
  | .picInit n => picInitEffect n s
  | .picDone n => picDoneEffect n s
  | .picFree n => picFreeEffect n s
  | .setCtb n rx ry addr slice tile => setCtbEffect n rx ry addr slice tile s
  | .setSlice n idx dbk lf saoL saoC beta tc => setSliceEffect n idx ⟨dbk, lf, saoL, saoC, beta, tc⟩ s
  | .setCu n k intra pcm bypass q x y => setCuEffect n k intra pcm bypass q x y s
  | .markTb n k nz x y => markTbEffect n k nz x y s
  | .markPb n pf0 pf1 ref0 ref1 x y w h mv0x mv0y mv1x mv1y =>
    markPbEffect n pf0 pf1 ref0 ref1 x y w h ⟨mv0x, mv0y⟩ ⟨mv1x, mv1y⟩ s
  | .setSao n c ty pos rx ry o1 o2 o3 o4 => setSaoEffect n c ty pos rx ry o1 o2 o3 o4 s
  | .setScaling n z m x y v => setScalingEffect n z m x y v s
  | .coefWrite cx cy value => .ok (s.setEngine s.cur { s.me with
      coef := tableSet 0#16 s.me.coef (coefKey cx.toNat cy.toNat) value })
  | .coefClear => .ok s.clearCoef
  | .putSample n c x y v => putSampleEffect n c x y v s
  | .intraPred n c k mode x y => intraPredEffect n c k mode x y s
  | .residual n c k tskip qp x y => residualEffect n c k tskip qp x y s
  | .interPred n c expl denom x y w h wt0 of0 wt1 of1 =>
    interPredEffect n c ⟨expl, denom.toNat, wt0.toInt, of0.toInt, wt1.toInt, of1.toInt⟩ x y w h s
  | .deblock n dir rx ry => deblockEffect n dir rx ry s
  | .sao n rx ry => saoEffect n rx ry s
  | .setProgress n v rx ry => setProgressEffect n v rx ry s
  | .waitProgress n v rx ry => (waitReached n v rx ry s).map fun _ => s

/-- A fault that a command's checks find is how the command ends, RESIDUAL with its buffer cleared. -/
theorem exec_of_error {s : State} {i : Instr} {code : FaultCode} (h : commandEffect s i = .error code) :
    (exec i s = .next (raise code s) ∧ ∀ m c k tskip qp x y, i ≠ .residual m c k tskip qp x y) ∨
      (exec i s = .next (raise code s.clearCoef) ∧ ∃ m c k tskip qp x y, i = .residual m c k tskip qp x y) := by
  cases i with
  | nop => cases h
  | coefWrite => cases h
  | coefClear => cases h
  | residual =>
    have h : residualEffect _ _ _ _ _ _ _ s = .error code := h
    exact .inr ⟨by simp [exec, execResidual, h], _, _, _, _, _, _, _, rfl⟩
  | waitProgress n v rx ry =>
    refine .inl ⟨?_, by simp⟩
    cases reached : waitReached n v rx ry s with
    | ok b => simp [commandEffect, reached, Except.map] at h
    | error code' =>
      obtain rfl : code' = code := by simpa [commandEffect, reached, Except.map] using h
      simp [exec, execWaitProgress, reached]
  | _ => exact .inl ⟨congrArg (finish _ s) h, by simp⟩

/-- A fault records its code and the command's index and leaves everything else, but that RESIDUAL clears its buffer. -/
theorem exec_faults {s : State} {i : Instr} {code : FaultCode} (h : commandEffect s i = .error code) :
    ∃ t, exec i s = .next t ∧ Faulted code s t ∧
      ((∀ m c k tskip qp x y, i ≠ .residual m c k tskip qp x y) → KeepsCoef s t) ∧
      (∀ m c k tskip qp x y, i = .residual m c k tskip qp x y → ∀ a b, t.me.coefAt a b = 0) := by
  rcases exec_of_error h with ⟨runs, other⟩ | ⟨runs, m, c, k, tskip, qp, x, y, isResidual⟩
  · exact ⟨_, runs, faulted_raise code s, fun _ => by simp [KeepsCoef],
      fun m c k tskip qp x y e => absurd e (other m c k tskip qp x y)⟩
  · refine ⟨_, runs, faulted_raise_clearCoef code s, fun other => absurd isResidual (other m c k tskip qp x y),
      fun _ _ _ _ _ _ _ _ a b => ?_⟩
    rw [me_raise, me_clearCoef]
    rfl

/-- A command other than RESIDUAL keeps the coefficient buffer when it faults. -/
theorem exec_faults_keepsCoef {s : State} {i : Instr} {code : FaultCode} (h : commandEffect s i = .error code)
    (other : ∀ m c k tskip qp x y, i ≠ .residual m c k tskip qp x y) :
    ∃ t, exec i s = .next t ∧ Faulted code s t ∧ KeepsCoef s t := by
  obtain ⟨t, runs, fault, keeps, -⟩ := exec_faults h
  exact ⟨t, runs, fault, keeps other⟩

end Sys2Proof.Machine

namespace Sys2Proof.Machine

/-! ## The common checks (R231) -/

section
variable {s : State} {n : BitVec 5} {k : Slot → Except FaultCode State} (hn : n.toNat < s.params.numSlots)
include hn

theorem withInFlight_landed (landed : (s.slot n).inFlight = false) : withInFlight s n k = .error .slotNotAllocated := by
  simp [withInFlight, withSlot, hn, landed]

theorem withPlane_landed {c : BitVec 2} (hc : componentOk c = true) (landed : (s.slot n).inFlight = false) :
    withPlane s n c k = .error .slotNotAllocated := by
  simp [withPlane, hc, withInFlight_landed hn landed]

theorem withPlane_noPlane {c : BitVec 2} (hc : componentOk c = true) (hf : (s.slot n).inFlight = true)
    (hp : (s.slot n).cfg.planeExists c.toNat = false) : withPlane s n c k = .error .codedParameterOutOfRange := by
  simp [withPlane, hc, withInFlight_pass hn hf, hp]

/-- A command that checks InFlight finds a slot that is not in flight, whatever its other fields are. -/
theorem commandEffect_landed {i : Instr} (wf : i.wellFormed = true) (named : namedSlot i = some n)
    (checks : checksInFlight i = true) (landed : (s.slot n).inFlight = false) :
    commandEffect s i = .error .slotNotAllocated := by
  cases i with
  | nop | regWrite | picInit | picFree | coefWrite | coefClear | waitProgress => cases checks
  | picDone | setCtb | setSlice | setCu | markTb | markPb | setScaling | deblock | sao | setProgress =>
    cases named; rw [commandEffect]; exact withInFlight_landed hn landed
  | setSao | putSample | intraPred | residual | interPred =>
    cases named; exact withPlane_landed hn wf landed

/-- A command on a plane that the slot in flight lacks is refused, whatever its other fields are. -/
theorem commandEffect_noPlane {i : Instr} {c : BitVec 2} (wf : i.wellFormed = true) (named : namedSlot i = some n)
    (component : namedComponent i = some c) (hf : (s.slot n).inFlight = true)
    (hp : (s.slot n).cfg.planeExists c.toNat = false) : commandEffect s i = .error .codedParameterOutOfRange := by
  cases i with
  | setSao | putSample | intraPred | residual | interPred =>
    cases named; cases component; exact withPlane_noPlane hn wf hf hp
  | _ => cases component

end

theorem planeExists_monochrome {g : CfgRegs} {c : BitVec 2} (hc : c ≠ 0) (mono : g.chromaFormat = 0) :
    g.planeExists c.toNat = false := by
  have chroma : c.toNat ≠ 0 := fun e => hc (BitVec.eq_of_toNat_eq e)
  simp [CfgRegs.planeExists, chroma, mono]

/-- Settles O7: what the common checks find is how the command ends, by `exec_faults`. -/
theorem commonChecks : Obligations.CommonChecks := by
  intro i s n wf named hn checks
  refine ⟨fun landed => ?_, fun c alloc done component hc mono => ?_⟩
  · rw [← Slot.inFlight_iff, Bool.not_eq_true] at landed
    obtain ⟨t, runs, fault, -⟩ := exec_faults (commandEffect_landed hn wf named checks landed)
    exact ⟨t, runs, fault⟩
  · have flight := (Slot.inFlight_iff _).mpr ⟨alloc, done⟩
    obtain ⟨t, runs, fault, -⟩ :=
      exec_faults (commandEffect_noPlane hn wf named component flight (planeExists_monochrome hc mono))
    exact ⟨t, runs, fault⟩

end Sys2Proof.Machine

namespace Sys2Proof.Machine

/-! ## The range and place checks as the statements name them (R66, R232)

A command whose check fails is followed to that check; the checks before it pass, and several in a row that raise the
same code are one check of their disjunction (`ite_or`). -/

theorem blockAligned_iff {k x y : Nat} :
    BlockAligned k x y ↔ ¬ (k < 2 ∨ 5 < k ∨ x % 2 ^ k ≠ 0 ∨ y % 2 ^ k ≠ 0) := by
  unfold BlockAligned
  omega

theorem pbAligned_iff {x y w h : Nat} :
    PbAligned x y w h ↔ ¬ (x % 4 ≠ 0 ∨ y % 4 ≠ 0 ∨ pbSizeOk w = false ∨ pbSizeOk h = false) := by
  simp only [PbAligned, not_or, not_not, Bool.not_eq_false]

theorem blockInPlane_iff {g : CfgRegs} {c k x y : Nat} :
    BlockInPlane g c k x y ↔ BlockAligned k x y ∧ ¬ BlockOutside g c x y (2 ^ k) (2 ^ k) := by
  simp only [BlockInPlane, BlockAligned, BlockOutside, not_or, not_lt, and_assoc]

/-- Plane 0 is the picture. -/
theorem blockOutside_luma_iff {g : CfgRegs} {x y w h : Nat} :
    BlockOutside g 0 x y w h ↔ g.picWidth < x + w ∨ g.picHeight < y + h := by
  simp [BlockOutside, CfgRegs.planeW, CfgRegs.planeH, CfgRegs.subW, CfgRegs.subH]

/-- A sample is a block of one row and one column. -/
theorem sampleOutside_iff {g : CfgRegs} {c x y : Nat} :
    BlockOutside g c x y 1 1 ↔ g.planeW c ≤ x ∨ g.planeH c ≤ y := by
  simp only [BlockOutside, Nat.lt_add_one_iff]

theorem ctbInside_of_not_outside {g : CfgRegs} {rx ry : BitVec 16} (h : ¬ CtbOutside g rx ry) :
    ¬ g.ctbInside rx.toNat ry.toNat = false := mt (ctbOutside_iff g rx ry).mpr h

/-- A value above 4 names no stage (R66). -/
theorem progressOf_of_gt {v : BitVec 3} (hv : 4 < v.toNat) : progressOf v = none := by
  cases h : progressOf v with
  | none => rfl
  | some p =>
    have value := progressOf_eq_some h
    have bound : p.toNat ≤ 4 := by cases p <;> decide
    omega

theorem two_pow_eq_four_iff (k : BitVec 3) : 2 ^ k.toNat = 4 ↔ k = 2 := by
  revert k
  decide

section
variable {s : State} {n : BitVec 5}

theorem withInFlight_ready (flight : InFlight s n) (f : Slot → Except FaultCode State) :
    withInFlight s n f = f (s.slot n) := withInFlight_pass flight.1 flight.2

theorem withPlane_ready {c : BitVec 2} (ready : PlaneReady s n c) (f : Slot → Except FaultCode State) :
    withPlane s n c f = f (s.slot n) := by
  obtain ⟨hc, ⟨hn, hf⟩, hp⟩ := ready
  exact withPlane_pass hc hn hf hp

/-! ### The life cycle of a slot -/

theorem regWriteEffect_badNumber (hn : n.toNat < s.params.numSlots) {reg : BitVec 8} (bad : 6 < reg.toNat)
    (value : Word) : regWriteEffect n reg value s = .error .codedParameterOutOfRange :=
  (if_pos hn).trans (if_pos bad)

theorem picInitEffect_allocated (hn : n.toNat < s.params.numSlots) (alloc : (s.slot n).alloc = true) :
    picInitEffect n s = .error .imageBufferFull :=
  (if_pos hn).trans (if_pos alloc)

theorem picInitEffect_invalid {code : FaultCode} (hn : n.toNat < s.params.numSlots) (free : (s.slot n).alloc = false)
    (invalid : validCfg s.params (s.slot n).cfg = some code) : picInitEffect n s = .error code := by
  simp [picInitEffect, withSlot, hn, free, invalid]

/-- The configuration check raises one of two codes (R213). -/
theorem validCfg_code {p : Params} {g : CfgRegs} {code : FaultCode} (invalid : validCfg p g = some code) :
    code = .codedParameterOutOfRange ∨ code = .outOfMemory := by
  unfold validCfg at invalid
  split_ifs at invalid
  · exact .inl (Option.some.inj invalid).symm
  · exact .inr (Option.some.inj invalid).symm

/-! ### The metadata commands -/

section
variable {k : BitVec 3} {x y rx ry : BitVec 16} (flight : InFlight s n)
include flight

theorem setCtbEffect_outside {addr : BitVec 32} {slice tile : BitVec 16} (outside : CtbOutside (s.slot n).cfg rx ry) :
    setCtbEffect n rx ry addr slice tile s = .error .ctbOutsideImageArea :=
  (withInFlight_ready flight _).trans (if_pos ((ctbOutside_iff _ rx ry).mp outside))

/-- Inside the picture SET_CTB checks its address, then its slice, then its tile. -/
theorem setCtbEffect_inside {addr : BitVec 32} {slice tile : BitVec 16} (inside : ¬ CtbOutside (s.slot n).cfg rx ry) :
    setCtbEffect n rx ry addr slice tile s =
      if (s.slot n).cfg.widthInCtbs * (s.slot n).cfg.heightInCtbs ≤ addr.toNat then .error .codedParameterOutOfRange
      else if s.params.maxSlices ≤ slice.toNat then .error .maxSlicesExceeded
      else if s.params.maxTiles ≤ tile.toNat then .error .codedParameterOutOfRange
      else .ok (s.setSlot n { s.slot n with
        ctbs := tableSet CtbRec.reset (s.slot n).ctbs (cellKey rx.toNat ry.toNat) ⟨addr, slice, tile, true⟩ }) :=
  (withInFlight_ready flight _).trans (if_neg (ctbInside_of_not_outside inside))

theorem setCtbEffect_outOfRange {addr : BitVec 32} {slice tile : BitVec 16}
    (inside : ¬ CtbOutside (s.slot n).cfg rx ry)
    (bad : (s.slot n).cfg.widthInCtbs * (s.slot n).cfg.heightInCtbs ≤ addr.toNat ∨
      (slice.toNat < s.params.maxSlices ∧ s.params.maxTiles ≤ tile.toNat)) :
    setCtbEffect n rx ry addr slice tile s = .error .codedParameterOutOfRange := by
  rw [setCtbEffect_inside flight inside]
  rcases bad with badAddr | ⟨sliceOk, badTile⟩
  · rw [if_pos badAddr]
  · rw [if_neg (Nat.not_le.mpr sliceOk), if_pos badTile, ite_self]

theorem setSliceEffect_badIndex {idx : BitVec 16} {r : SliceRec} (bad : s.params.maxSlices ≤ idx.toNat) :
    setSliceEffect n idx r s = .error .maxSlicesExceeded :=
  (withInFlight_ready flight _).trans (if_pos bad)

theorem setSliceEffect_badOffset {idx : BitVec 16} {r : SliceRec} (idxOk : idx.toNat < s.params.maxSlices)
    (bad : r.betaOffsetDiv2.toInt < -6 ∨ 6 < r.betaOffsetDiv2.toInt ∨ r.tcOffsetDiv2.toInt < -6 ∨
      6 < r.tcOffsetDiv2.toInt) : setSliceEffect n idx r s = .error .codedParameterOutOfRange := by
  have offsets : sliceOffsetOk r.betaOffsetDiv2 = false ∨ sliceOffsetOk r.tcOffsetDiv2 = false := by
    simp only [sliceOffsetOk, decide_eq_false_iff_not]
    omega
  exact (withInFlight_ready flight _).trans ((if_neg (Nat.not_le.mpr idxOk)).trans (if_pos offsets))

section
variable {intra pcm bypass : Bool} {q : BitVec 7}

theorem setCuEffect_outOfRange (bad : k.toNat < 3 ∨ (s.slot n).cfg.log2Ctb < k.toNat ∨ x.toNat % 2 ^ k.toNat ≠ 0 ∨
      y.toNat % 2 ^ k.toNat ≠ 0 ∨ q.toInt < -(s.slot n).cfg.qpBdOffset 0 ∨ 51 < q.toInt ∨
      (pcm = true ∧ intra = false)) : setCuEffect n k intra pcm bypass q x y s = .error .codedParameterOutOfRange := by
  rw [setCuEffect, withInFlight_ready flight]
  dsimp only
  rw [← ite_or, ← ite_or, ← ite_or]
  exact if_pos (by simpa only [or_assoc] using bad)

theorem setCuEffect_outside (large : 3 ≤ k.toNat) (small : k.toNat ≤ (s.slot n).cfg.log2Ctb)
    (hx : x.toNat % 2 ^ k.toNat = 0) (hy : y.toNat % 2 ^ k.toNat = 0) (qLo : -(s.slot n).cfg.qpBdOffset 0 ≤ q.toInt)
    (qHi : q.toInt ≤ 51) (modes : pcm = true → intra = true)
    (outside : BlockOutside (s.slot n).cfg 0 x.toNat y.toNat (2 ^ k.toNat) (2 ^ k.toNat)) :
    setCuEffect n k intra pcm bypass q x y s = .error .ctbOutsideImageArea := by
  rw [setCuEffect, withInFlight_ready flight]
  dsimp only
  rw [if_neg (by omega), if_neg (by omega), if_neg (by omega), if_neg (by simpa using modes)]
  exact if_pos (blockOutside_luma_iff.mp outside)

end

theorem markTbEffect_outOfRange {nz : Bool} (bad : ¬ BlockAligned k.toNat x.toNat y.toNat) :
    markTbEffect n k nz x y s = .error .codedParameterOutOfRange :=
  (withInFlight_ready flight _).trans (if_pos (blockAligned_iff.not_left.mp bad))

theorem markTbEffect_outside {nz : Bool} (aligned : BlockAligned k.toNat x.toNat y.toNat)
    (outside : BlockOutside (s.slot n).cfg 0 x.toNat y.toNat (2 ^ k.toNat) (2 ^ k.toNat)) :
    markTbEffect n k nz x y s = .error .ctbOutsideImageArea :=
  (withInFlight_ready flight _).trans
    ((if_neg (blockAligned_iff.mp aligned)).trans (if_pos (blockOutside_luma_iff.mp outside)))


section
variable {pf0 pf1 : Bool} {ref0 ref1 : BitVec 5} {w h : BitVec 16} {mv0 mv1 : Mv}

theorem markPbEffect_outOfRange (bad : ¬ PbAligned x.toNat y.toNat w.toNat h.toNat ∨
      s.params.numSlots ≤ ref0.toNat ∨ s.params.numSlots ≤ ref1.toNat) :
    markPbEffect n pf0 pf1 ref0 ref1 x y w h mv0 mv1 s = .error .codedParameterOutOfRange := by
  rw [markPbEffect, withInFlight_ready flight, ← ite_or, if_pos (bad.imp_left pbAligned_iff.not_left.mp)]

theorem markPbEffect_outside (aligned : PbAligned x.toNat y.toNat w.toNat h.toNat)
    (href0 : ref0.toNat < s.params.numSlots) (href1 : ref1.toNat < s.params.numSlots)
    (outside : BlockOutside (s.slot n).cfg 0 x.toNat y.toNat w.toNat h.toNat) :
    markPbEffect n pf0 pf1 ref0 ref1 x y w h mv0 mv1 s = .error .ctbOutsideImageArea := by
  have refs : ¬ (s.params.numSlots ≤ ref0.toNat ∨ s.params.numSlots ≤ ref1.toNat) := by omega
  rw [markPbEffect, withInFlight_ready flight, if_neg (pbAligned_iff.mp aligned), if_neg refs,
    if_pos (blockOutside_luma_iff.mp outside)]

end

/-! ### The commands on a CTB -/

theorem deblockEffect_outside {dir : Bool} (outside : CtbOutside (s.slot n).cfg rx ry) :
    deblockEffect n dir rx ry s = .error .ctbOutsideImageArea :=
  (withInFlight_ready flight _).trans (if_pos ((ctbOutside_iff _ rx ry).mp outside))

theorem saoEffect_outside (outside : CtbOutside (s.slot n).cfg rx ry) :
    saoEffect n rx ry s = .error .ctbOutsideImageArea :=
  (withInFlight_ready flight _).trans (if_pos ((ctbOutside_iff _ rx ry).mp outside))

theorem setProgressEffect_badValue {v : BitVec 3} (bad : 4 < v.toNat) :
    setProgressEffect n v rx ry s = .error .codedParameterOutOfRange := by
  rw [setProgressEffect, withInFlight_ready flight, progressOf_of_gt bad]

theorem setProgressEffect_outside {v : BitVec 3} (hv : v.toNat ≤ 4) (outside : CtbOutside (s.slot n).cfg rx ry) :
    setProgressEffect n v rx ry s = .error .ctbOutsideImageArea := by
  obtain ⟨p, named, -⟩ := progressOf_of_le hv
  rw [setProgressEffect, withInFlight_ready flight, named]
  exact if_pos ((ctbOutside_iff _ rx ry).mp outside)

end

section
variable {v : BitVec 3} {rx ry : BitVec 16} (hn : n.toNat < s.params.numSlots) (alloc : (s.slot n).alloc = true)
include hn alloc

theorem waitReached_badValue (bad : 4 < v.toNat) : waitReached n v rx ry s = .error .codedParameterOutOfRange := by
  rw [waitReached, if_neg (Nat.not_le.mpr hn), if_neg (by simp [alloc]), progressOf_of_gt bad]

theorem waitReached_outside (hv : v.toNat ≤ 4) (outside : CtbOutside (s.slot n).cfg rx ry) :
    waitReached n v rx ry s = .error .ctbOutsideImageArea := by
  obtain ⟨p, named, -⟩ := progressOf_of_le hv
  rw [waitReached, if_neg (Nat.not_le.mpr hn), if_neg (by simp [alloc]), named]
  exact if_pos ((ctbOutside_iff _ rx ry).mp outside)

end

/-! ### The commands on a plane -/

section
variable {c : BitVec 2} {k : BitVec 3} {x y : BitVec 16} (ready : PlaneReady s n c)
include ready

section
variable {ty : BitVec 2} {pos : BitVec 5} {rx ry : BitVec 16} {o1 o2 o3 o4 : BitVec 8}

theorem setSaoEffect_outOfRange (bad : ty = 3 ∨ (ty = 2 ∧ 3 < pos.toNat)) :
    setSaoEffect n c ty pos rx ry o1 o2 o3 o4 s = .error .codedParameterOutOfRange := by
  rw [setSaoEffect, withPlane_ready ready, ← ite_or, if_pos bad]

theorem setSaoEffect_outside (typeOk : ty ≠ 3) (classOk : ty = 2 → pos.toNat ≤ 3)
    (outside : CtbOutside (s.slot n).cfg rx ry) :
    setSaoEffect n c ty pos rx ry o1 o2 o3 o4 s = .error .ctbOutsideImageArea := by
  have classInRange : ¬ (ty = 2 ∧ 3 < pos.toNat) := fun ⟨edge, above⟩ => Nat.not_lt.mpr (classOk edge) above
  rw [setSaoEffect, withPlane_ready ready, if_neg typeOk, if_neg classInRange,
    if_pos ((ctbOutside_iff _ rx ry).mp outside)]

end

theorem putSampleEffect_outside {v : BitVec 16} (outside : BlockOutside (s.slot n).cfg c.toNat x.toNat y.toNat 1 1) :
    putSampleEffect n c x y v s = .error .ctbOutsideImageArea :=
  (withPlane_ready ready _).trans (if_pos (sampleOutside_iff.mp outside))

theorem putSampleEffect_badValue {v : BitVec 16}
    (inside : ¬ BlockOutside (s.slot n).cfg c.toNat x.toNat y.toNat 1 1)
    (bad : 2 ^ (s.slot n).cfg.bitDepth c.toNat ≤ v.toNat) :
    putSampleEffect n c x y v s = .error .codedParameterOutOfRange :=
  (withPlane_ready ready _).trans ((if_neg (mt sampleOutside_iff.mpr inside)).trans (if_pos bad))

theorem intraPredEffect_outOfRange {mode : BitVec 6}
    (bad : ¬ BlockAligned k.toNat x.toNat y.toNat ∨ 34 < mode.toNat) :
    intraPredEffect n c k mode x y s = .error .codedParameterOutOfRange := by
  have fails : (k.toNat < 2 ∨ 5 < k.toNat ∨ 34 < mode.toNat) ∨
      (x.toNat % 2 ^ k.toNat ≠ 0 ∨ y.toNat % 2 ^ k.toNat ≠ 0) := by
    rw [blockAligned_iff] at bad
    omega
  rw [intraPredEffect, withPlane_ready ready]
  dsimp only
  rw [← ite_or, if_pos fails]

theorem intraPredEffect_outside {mode : BitVec 6} (aligned : BlockAligned k.toNat x.toNat y.toNat)
    (hmode : mode.toNat ≤ 34)
    (outside : BlockOutside (s.slot n).cfg c.toNat x.toNat y.toNat (2 ^ k.toNat) (2 ^ k.toNat)) :
    intraPredEffect n c k mode x y s = .error .ctbOutsideImageArea := by
  obtain ⟨hk2, hk5, hx, hy⟩ := aligned
  rw [intraPredEffect, withPlane_ready ready]
  dsimp only
  rw [if_neg (by omega), if_neg (by omega)]
  exact if_pos outside

section
variable {tskip : Bool} {qp : BitVec 7}

theorem residualEffect_misaligned (bad : ¬ BlockAligned k.toNat x.toNat y.toNat) :
    residualEffect n c k tskip qp x y s = .error .codedParameterOutOfRange := by
  have fails : (k.toNat < 2 ∨ 5 < k.toNat) ∨ (x.toNat % 2 ^ k.toNat ≠ 0 ∨ y.toNat % 2 ^ k.toNat ≠ 0) := by
    rw [blockAligned_iff] at bad
    omega
  rw [residualEffect, withPlane_ready ready]
  dsimp only
  rw [← ite_or, if_pos fails]

theorem residualEffect_outside (aligned : BlockAligned k.toNat x.toNat y.toNat)
    (outside : BlockOutside (s.slot n).cfg c.toNat x.toNat y.toNat (2 ^ k.toNat) (2 ^ k.toNat)) :
    residualEffect n c k tskip qp x y s = .error .ctbOutsideImageArea := by
  obtain ⟨hk2, hk5, hx, hy⟩ := aligned
  rw [residualEffect, withPlane_ready ready]
  dsimp only
  rw [if_neg (by omega), if_neg (by omega)]
  exact if_pos outside

/-- Of a block inside its plane RESIDUAL checks QP and TSKIP, then the levels. -/
theorem residualEffect_inPlane (block : BlockInPlane (s.slot n).cfg c.toNat k.toNat x.toNat y.toNat) :
    residualEffect n c k tskip qp x y s =
      if 51 + (s.slot n).cfg.qpBdOffset c.toNat < (qp.toNat : Int) ∨ tskip = true ∧ k ≠ 2 then
        .error .codedParameterOutOfRange
      else if coefOutside s.me (2 ^ k.toNat) then .error .coefficientOutOfImageBounds
      else .ok (s.setSamples (blockWrites n .recon c.toNat x.toNat y.toNat (2 ^ k.toNat) (2 ^ k.toNat)
        (residualSample s n c k tskip qp x y))).drawn := by
  obtain ⟨hk2, hk5, hx, hy, hw, hh⟩ := block
  rw [residualEffect, withPlane_ready ready]
  dsimp only
  rw [if_neg (by omega), if_neg (by omega), if_neg (by omega), ← ite_or]
  simp only [ne_eq, two_pow_eq_four_iff]
  rfl

theorem residualEffect_outOfRange (bad : ¬ BlockAligned k.toNat x.toNat y.toNat ∨
      (¬ BlockOutside (s.slot n).cfg c.toNat x.toNat y.toNat (2 ^ k.toNat) (2 ^ k.toNat) ∧
        (51 + (s.slot n).cfg.qpBdOffset c.toNat < (qp.toNat : Int) ∨ (tskip = true ∧ k ≠ 2)))) :
    residualEffect n c k tskip qp x y s = .error .codedParameterOutOfRange := by
  by_cases aligned : BlockAligned k.toNat x.toNat y.toNat
  · obtain ⟨inside, fails⟩ := bad.resolve_left (not_not_intro aligned)
    rw [residualEffect_inPlane ready (blockInPlane_iff.mpr ⟨aligned, inside⟩), if_pos fails]
  · exact residualEffect_misaligned ready aligned

theorem residualEffect_levelOutside {a b : Nat}
    (block : BlockInPlane (s.slot n).cfg c.toNat k.toNat x.toNat y.toNat)
    (hqp : (qp.toNat : Int) ≤ 51 + (s.slot n).cfg.qpBdOffset c.toNat) (skip : tskip = true → k = 2) (ha : a < 32)
    (hb : b < 32) (outside : 2 ^ k.toNat ≤ a ∨ 2 ^ k.toNat ≤ b) (level : s.me.coefAt a b ≠ 0) :
    residualEffect n c k tskip qp x y s = .error .coefficientOutOfImageBounds := by
  have passes : ¬ (51 + (s.slot n).cfg.qpBdOffset c.toNat < (qp.toNat : Int) ∨ tskip = true ∧ k ≠ 2) := by
    rintro (above | ⟨skipped, size⟩)
    · omega
    · exact size (skip skipped)
  have found : coefOutside s.me (2 ^ k.toNat) = true := by
    by_contra none
    exact level (coefOutside_eq_false_iff.mp (Bool.not_eq_true _ ▸ none) a b ha hb outside)
  rw [residualEffect_inPlane ready block, if_neg passes, if_pos found]

end

section
variable {weights : Weights} {w h : BitVec 16}

theorem interPredEffect_outOfRange (bad : ¬ PbAligned x.toNat y.toNat w.toNat h.toNat) :
    interPredEffect n c weights x y w h s = .error .codedParameterOutOfRange :=
  (withPlane_ready ready _).trans (if_pos (pbAligned_iff.not_left.mp bad))

theorem interPredEffect_outside (aligned : PbAligned x.toNat y.toNat w.toNat h.toNat)
    (outside : BlockOutside (s.slot n).cfg 0 x.toNat y.toNat w.toNat h.toNat) :
    interPredEffect n c weights x y w h s = .error .ctbOutsideImageArea :=
  (withPlane_ready ready _).trans
    ((if_neg (pbAligned_iff.mp aligned)).trans (if_pos (blockOutside_luma_iff.mp outside)))

end
end
end

end Sys2Proof.Machine

namespace Sys2Proof.Machine

/-! ## The codes (R232) -/

section
variable {s : State} {i : Instr} {n : BitVec 5}

/-- A wait's fault is that of its evaluation. -/
theorem commandEffect_wait {v : BitVec 3} {rx ry : BitVec 16} {code : FaultCode}
    (h : waitReached n v rx ry s = .error code) : commandEffect s (.waitProgress n v rx ry) = .error code := by
  simp [commandEffect, h, Except.map]

/-- A command that reaches the check of its place is refused with code 6 where the place is outside the picture. -/
theorem commandEffect_outsidePicture (named : namedSlot i = some n) (reaches : ReachesPlaceCheck s i)
    (outside : OutsidePicture (s.slot n).cfg i) : commandEffect s i = .error .ctbOutsideImageArea := by
  cases i with
  | nop | regWrite | picInit | picDone | picFree | setSlice | setScaling | coefWrite | coefClear => exact reaches.elim
  | setCtb => cases named; exact setCtbEffect_outside reaches outside
  | setCu =>
    cases named
    obtain ⟨flight, large, small, hx, hy, qLo, qHi, modes⟩ := reaches
    exact setCuEffect_outside flight large small hx hy qLo qHi modes outside
  | markTb => cases named; exact markTbEffect_outside reaches.1 reaches.2 outside
  | markPb =>
    cases named
    obtain ⟨flight, aligned, href0, href1⟩ := reaches
    exact markPbEffect_outside flight aligned href0 href1 outside
  | setSao =>
    cases named
    obtain ⟨ready, typeOk, classOk⟩ := reaches
    exact setSaoEffect_outside ready typeOk classOk outside
  | putSample => cases named; exact putSampleEffect_outside reaches outside
  | intraPred =>
    cases named
    obtain ⟨ready, aligned, hmode⟩ := reaches
    exact intraPredEffect_outside ready aligned hmode outside
  | residual => cases named; exact residualEffect_outside reaches.1 reaches.2 outside
  | interPred => cases named; exact interPredEffect_outside reaches.1 reaches.2 outside
  | deblock => cases named; exact deblockEffect_outside reaches outside
  | sao => cases named; exact saoEffect_outside reaches outside
  | setProgress => cases named; exact setProgressEffect_outside reaches.1 reaches.2 outside
  | waitProgress =>
    cases named
    obtain ⟨hn, alloc, hv⟩ := reaches
    exact commandEffect_wait (waitReached_outside hn alloc hv outside)

/-- A command that reaches a range check of its own that fails is refused with code 8. -/
theorem commandEffect_fieldOutOfRange (fails : FieldOutOfRange s i) :
    commandEffect s i = .error .codedParameterOutOfRange := by
  cases i with
  | nop | picInit | picDone | picFree | coefWrite | coefClear | deblock | sao => exact fails.elim
  | regWrite => exact regWriteEffect_badNumber fails.1 fails.2 _
  | setCtb =>
    obtain ⟨flight, inside, bad⟩ := fails
    exact setCtbEffect_outOfRange flight inside bad
  | setSlice =>
    obtain ⟨flight, idxOk, bad⟩ := fails
    exact setSliceEffect_badOffset flight idxOk bad
  | setCu => exact setCuEffect_outOfRange fails.1 fails.2
  | markTb => exact markTbEffect_outOfRange fails.1 fails.2
  | markPb => exact markPbEffect_outOfRange fails.1 fails.2
  | setSao => exact setSaoEffect_outOfRange fails.1 fails.2
  | setScaling => exact (setScalingEffect_inFlight fails.1 _ _ _ _ _).trans (if_pos fails.2)
  | putSample =>
    obtain ⟨ready, inside, bad⟩ := fails
    exact putSampleEffect_badValue ready inside bad
  | intraPred => exact intraPredEffect_outOfRange fails.1 fails.2
  | residual => exact residualEffect_outOfRange fails.1 fails.2
  | interPred => exact interPredEffect_outOfRange fails.1 fails.2
  | setProgress => exact setProgressEffect_badValue fails.1 fails.2
  | waitProgress =>
    obtain ⟨hn, alloc, bad⟩ := fails
    exact commandEffect_wait (waitReached_badValue hn alloc bad)

end

/-- Settles O42: each clause is a fault that the command's checks find, and `exec_faults` says how it ends. -/
theorem faultCodes : Obligations.FaultCodes := by
  refine ⟨?level, ?place, fun i s fails => exec_faults (commandEffect_fieldOutOfRange fails), ?allocated, ?invalid,
    ?slice, ?ctb⟩
  case level =>
    intro s n c k tskip qp x y a b ready block hqp skip ha hb outside level
    obtain ⟨t, runs, fault, -, cleared⟩ := exec_faults (i := .residual n c k tskip qp x y)
      (residualEffect_levelOutside ready block hqp skip ha hb outside level)
    exact ⟨t, runs, fault, cleared _ _ _ _ _ _ _ rfl⟩
  case place =>
    rintro i s n _ named rfl reaches outside
    exact exec_faults (commandEffect_outsidePicture named reaches outside)
  case allocated =>
    intro s n hn alloc
    exact exec_faults_keepsCoef (i := .picInit n) (picInitEffect_allocated hn alloc) (by simp)
  case invalid =>
    intro s n code hn free invalid
    obtain ⟨t, runs, fault, keeps⟩ :=
      exec_faults_keepsCoef (i := .picInit n) (picInitEffect_invalid hn free invalid) (by simp)
    exact ⟨t, runs, fault, keeps, validCfg_code invalid⟩
  case slice =>
    intro s n idx dbk lf saoL saoC beta tc flight bad
    exact exec_faults_keepsCoef (i := .setSlice n idx dbk lf saoL saoC beta tc) (setSliceEffect_badIndex flight bad)
      (by simp)
  case ctb =>
    intro s n rx ry addr slice tile flight hrx hry haddr hslice
    have inside : ¬ CtbOutside (s.slot n).cfg rx ry := by simp [CtbOutside, hrx, hry]
    have effect := (setCtbEffect_inside (tile := tile) flight inside).trans
      ((if_neg (Nat.not_le.mpr haddr)).trans (if_pos hslice))
    exact exec_faults_keepsCoef (i := .setCtb n rx ry addr slice tile) effect (by simp)

end Sys2Proof.Machine

namespace Sys2Proof.Machine

/-! ## Reset (R247, R250) -/

/-! ### The reset values -/

@[simp] theorem engine_hostReset (s : State) (e : BitVec 5) : (hostReset s).engine e = Engine.reset := by
  simp [hostReset, resetAll, State.engine]

@[simp] theorem engine_resetWith (p : Params) (e : BitVec 5) : (State.resetWith p).engine e = Engine.reset := by
  simp [State.resetWith, State.engine]

@[simp] theorem coefAt_reset (x y : Nat) : Engine.reset.coefAt x y = 0 := rfl

@[simp] theorem cfgRead_reset (r : BitVec 8) : CfgRegs.reset.read r = 0 := by
  unfold CfgRegs.read
  split <;> rfl

theorem Engine.legal_reset (p : Params) : Engine.reset.legal p = true :=
  Engine.legal_iff.mpr
    ⟨Nat.zero_le _, rfl, List.mem_cons_self, fun faulted => Bool.noConfusion faulted, fun _ => ⟨rfl, rfl⟩⟩

/-! ### What the host sees after reset -/

section
variable {s : State}

theorem engineState_of_engine_reset {e : BitVec 5} (h : s.engine e = Engine.reset) : s.engineState e = .idle :=
  engineState_idle_iff.mpr (by rw [h]; exact ⟨rfl, rfl⟩)

/-- The interrupt line needs a FAULTED engine (R238). -/
theorem irq_eq_false_of_no_fault (h : ∀ e, (s.engine e).faulted = false) : s.irq = false := by
  simp [State.irq, h]

theorem sampleWritten_of_mem_nil (h : s.mem = []) (n : BitVec 5) (set : PlaneSet) (c x y : Nat) :
    s.sampleWritten n set c x y = false := by
  rw [State.sampleWritten, h]
  rfl

end

/-- The power-on state is legal; the parameters are the one part of it that reset does not choose. -/
theorem resetWith_legal {p : Params} (h : p.legal = true) : (State.resetWith p).Legal := by
  refine .of_parts h rfl rfl (fun n => ?slots) (fun e => ?engines) (Nat.zero_le _)
    fun w queued => absurd queued List.not_mem_nil
  case slots =>
    rw [slot_resetWith]
    exact Slot.legal_reset p
  case engines =>
    rw [engine_resetWith]
    exact Engine.legal_reset p

/-- Settles O17: `resetWith_legal`, and the default parameters are in their ranges. -/
theorem resetLegal : Obligations.ResetLegal :=
  ⟨fun _ inRange => resetWith_legal inRange, resetWith_legal (by decide)⟩

/-- Settles O18: the step is `hostReset`, so every engine is `Engine.reset`, every slot `Slot.reset` and the memory
empty. -/
theorem hostResetClears : Obligations.HostResetClears := by
  intro s next
  have engine := engine_hostReset s.advanceAgenda
  refine ⟨hostReset s.advanceAgenda, step_host next, rfl, fun e => ?engines, rfl, rfl, ?line, fun n => ?slots,
    sampleWritten_of_mem_nil rfl⟩
  case engines =>
    rw [engineState_of_engine_reset (engine e), engine e]
    exact ⟨rfl, rfl, rfl, rfl, rfl, rfl, coefAt_reset⟩
  case line => exact irq_eq_false_of_no_fault fun e => by rw [engine e]; rfl
  case slots =>
    rw [slot_hostReset]
    exact ⟨rfl, rfl, rfl, cfgRead_reset, fun _ _ => rfl, fun _ _ => rfl, fun _ => rfl, fun _ _ _ => rfl,
      progressAt_reset, fun _ _ _ _ => rfl⟩

end Sys2Proof.Machine
